-- ==== Sys2Proof/Word.lean ====
section
/-!
DEFINITION. The word types of the command interface: bytes of caller memory and 32-bit command and result words
(spec/00_scope.md R13).
-/

namespace Sys2Proof

/-- A `u8`. -/
abbrev Byte := BitVec 8

/-- A `u32`: a command word, an extension word or a result word (spec/30_encoding.md R80, spec/10_state.md R41). -/
abbrev Word := BitVec 32

end Sys2Proof
end

