-- ==== Sys2Proof/Config.lean ====
section
/-!
DEFINITION. The configuration record of a variant, fixed for a run (spec/00_scope.md R10), its well-formedness (R11),
and the free values: constants without a body, for what the spec leaves to a draw.
-/

namespace Sys2Proof

/-- The architecture variants (spec/00_scope.md R3). -/
inductive Arch where
  | narrow8
  | wide32
  deriving DecidableEq, Repr

/-- Whether a notification may be delivered while a handler runs (spec/00_scope.md R10, spec/60_exceptions.md R242). -/
inductive IrqNesting where
  | admitted
  | excluded
  deriving DecidableEq, Repr

/-- The four bus lines (spec/00_scope.md R16). -/
inductive BusLine where
  | atn
  | clock
  | data
  | srq
  deriving DecidableEq, Repr

/-- One bit for each bus line (`OUT`, `EXT`, `INV`). -/
structure Lines where
  atn : Bool
  clock : Bool
  data : Bool
  srq : Bool
  deriving DecidableEq, Repr

/-- SPI clock polarity, phase and bit order: open in the spec (spec/44_spi.md R197). -/
structure SpiMode where
  cpol : Bool
  cpha : Bool
  msbFirst : Bool
  deriving DecidableEq, Repr

/-- The configuration record of spec/00_scope.md R10. `toTicks` holds the points at which `TO_TICKS` is not the
identity (DESIGN CHOICE, log 2; safe: every function on the operands of `start_timeout` can be given). -/
structure Config where
  arch : Arch
  /-- `TICK_W` -/
  tickW : Nat
  /-- `ADDR_W` -/
  addrW : Nat
  /-- `TO_MAX` -/
  toMax : Nat
  /-- `TO_TICKS`, as a table over the identity -/
  toTicks : List (Nat × Nat)
  /-- `INV[l]` -/
  inv : Lines
  /-- `CAPTURE_WIRED[ATN]` -/
  wiredAtn : Bool
  /-- `CAPTURE_WIRED[CLOCK]` -/
  wiredClock : Bool
  /-- `HAS_PARALLEL` -/
  hasParallel : Bool
  /-- `SPI_DIV_SLOW` -/
  spiDivSlow : Nat
  /-- `SPI_DIV_FAST` -/
  spiDivFast : Nat
  /-- `SPI_REF_CLK` in Hz -/
  spiRefClk : Nat
  /-- `SPI_MODE` -/
  spiMode : SpiMode
  /-- `IRQ_NESTING` -/
  irqNesting : IrqNesting
  deriving DecidableEq, Repr

/-- The value `TICK_W` has on an architecture (spec/00_scope.md R10). -/
def Arch.tickW : Arch → Nat
  | .narrow8 => 8
  | .wide32 => 32

/-- The value `ADDR_W` has on an architecture (spec/00_scope.md R10). -/
def Arch.addrW : Arch → Nat
  | .narrow8 => 16
  | .wide32 => 32

/-- The value `TO_MAX` has on an architecture (spec/00_scope.md R10). -/
def Arch.toMax : Arch → Nat
  | .narrow8 => 256
  | .wide32 => 2 ^ 24 - 1

/-- `TO_TICKS`: the table where it has an entry, else the identity (spec/00_scope.md R10, spec/40_timeout.md R113). -/
def Config.ticks (cfg : Config) (usecs : Nat) : Nat :=
  (cfg.toTicks.lookup usecs).getD usecs

/-- A well-formed configuration (spec/00_scope.md R11). The clause on `toTicks` keeps `TO_REM` in `0..TO_MAX`
(spec/10_state.md R21); DEDUCED, log 2; safe: it refuses a configuration. -/
def Config.wf (cfg : Config) : Bool :=
  decide (cfg.tickW = cfg.arch.tickW) && decide (cfg.addrW = cfg.arch.addrW) &&
  decide (cfg.toMax = cfg.arch.toMax) && decide (cfg.spiDivFast < cfg.spiDivSlow) &&
  decide (0 < cfg.spiDivFast) && cfg.toTicks.all fun entry => decide (entry.2 ≤ cfg.toMax)

/-- The configuration of an architecture with everything provided and every open parameter at a named value
(DESIGN CHOICE, log 1 and log 3; unsafe only where a statement rests on this one configuration). -/
def Config.full (arch : Arch) : Config where
  arch := arch
  tickW := arch.tickW
  addrW := arch.addrW
  toMax := arch.toMax
  toTicks := []
  inv := ⟨false, false, false, false⟩
  wiredAtn := true
  wiredClock := true
  hasParallel := true
  spiDivSlow := 2
  spiDivFast := 1
  spiRefClk := 0
  spiMode := ⟨false, false, true⟩
  irqNesting := .admitted

/-- A byte an SPI device answers when `inputs.spiIn` holds none (spec/44_spi.md R193): a free value, log 14. -/
opaque Config.freeByte : Nat → Byte

/-- Whether a pending edge survives the disarming of its source (spec/42_edge_irq.md R156): a free value, log 15. -/
opaque Config.freeBit : Nat → Bool

/-- A free number, used within the bounds the spec sets: what is left of an interrupted delay
(spec/40_timeout.md R122, log 16) and the order of deliveries (spec/60_exceptions.md R244, log 13). -/
opaque Config.freeNat : Nat → Nat

end Sys2Proof
end

