-- ==== Sys2Proof/Syntax.lean ====
section
/-!
DEFINITION. The 23 commands of spec/opcode_table.json, the words a command is handed over as (spec/30_encoding.md
R80 to R92), and the lines of the caller harness (R103 to R105).
-/

namespace Sys2Proof

/-- The two SPI clock presets (spec/10_state.md R32). -/
inductive Speed where
  | slow
  | fast
  deriving DecidableEq, Repr

/-- The SPI device selector (spec/10_state.md R33). -/
inductive Selector where
  | none
  | card0
  | card1
  | all
  deriving DecidableEq, Repr

/-- The interrupt sources (spec/00_scope.md R16). -/
inductive Source where
  | edgeAtn
  | edgeClock
  | parHs
  deriving DecidableEq, Repr

/-- A command: one constructor for each row of spec/opcode_table.json, operands as spec/30_encoding.md R92 gives them. -/
inductive Instr where
  | startTimeout (usecs : BitVec 24)
  | hasTimedOut
  | delayUs (n : BitVec 24)
  | delayMs (n : BitVec 24)
  | iecBusRead
  | setAtn (v : Bool)
  | setClock (v : Bool)
  | setData (v : Bool)
  | setSrq (v : Bool)
  | setAtnIrq (enable : Bool)
  | setClockIrq (enable : Bool)
  | crc7Update (acc : Byte) (data : Byte)
  | crc16Update (acc : BitVec 16) (data : Byte)
  | crc7Block (acc : Byte) (addr : Word) (len : Word)
  | crc16Block (acc : BitVec 16) (addr : Word) (len : Word)
  | spiInit (speed : Speed)
  | spiSelectDevice (dev : Selector)
  | spiTxByte (data : Byte)
  | spiRxByte
  | spiTxBlock (addr : Word) (len : Word)
  | spiRxBlock (addr : Word) (len : Word)
  | spiSetSpeed (speed : Speed)
  | parallelInit
  deriving DecidableEq, Repr

/-- A command as it is handed to the block: the command word and the two extension words, which only the four block
commands have (spec/30_encoding.md R80); the extension words of a one-word command are not looked at. -/
structure Words where
  w0 : Word
  w1 : Word
  w2 : Word
  deriving DecidableEq, Repr

/-- A line of a caller program (spec/30_encoding.md R103 to R105). A branch names the index of its target line
(DESIGN CHOICE, log 11; safe: the assembler's resolution of a label). -/
inductive ProgLine where
  | cmd (w : Words)
  /-- a CRC command whose accumulator operand is `res` (R105) -/
  | cmdRes (w : Words)
  | label
  | b (target : Nat)
  | bz (target : Nat)
  | bnz (target : Nat)
  | halt
  deriving DecidableEq, Repr

/-- The caller's programs: the main path's, and `HANDLER[s]` for each source (spec/60_exceptions.md R240). -/
structure Programs where
  main : List ProgLine
  edgeAtn : List ProgLine
  edgeClock : List ProgLine
  parHs : List ProgLine
  deriving DecidableEq, Repr

end Sys2Proof
end

