-- ==== Sys2Proof/WellFormed.lean ====
section
/-!
DEFINITION. What an admitted command is: the operand ranges of spec/30_encoding.md R93 and R99, the commands an
architecture lacks (R99), and the commands a configuration must provide for (spec/00_scope.md R12).
-/

namespace Sys2Proof

/-- A command the decoder admits under a configuration (spec/30_encoding.md R93, R95, R99). -/
def Instr.wf (cfg : Config) : Instr → Bool
  | .startTimeout usecs => decide (usecs ≠ 0) && decide (usecs.toNat ≤ cfg.toMax)
  | .hasTimedOut => true
  | .delayUs _ => decide (cfg.arch ≠ .narrow8)
  | .delayMs _ => decide (cfg.arch ≠ .narrow8)
  | .iecBusRead => true
  | .setAtn _ => true
  | .setClock _ => true
  | .setData _ => true
  | .setSrq _ => true
  | .setAtnIrq _ => true
  | .setClockIrq _ => true
  | .crc7Update _ _ => true
  | .crc16Update _ _ => true
  | .crc7Block _ addr _ => decide (cfg.arch = .narrow8 → addr.toNat < 2 ^ 16)
  | .crc16Block _ addr _ => decide (cfg.arch = .narrow8 → addr.toNat < 2 ^ 16)
  | .spiInit _ => true
  | .spiSelectDevice _ => true
  | .spiTxByte _ => true
  | .spiRxByte => true
  | .spiTxBlock addr _ => decide (cfg.arch = .narrow8 → addr.toNat < 2 ^ 16)
  | .spiRxBlock addr _ => decide (cfg.arch = .narrow8 → addr.toNat < 2 ^ 16)
  | .spiSetSpeed _ => true
  | .parallelInit => true

/-- A command the variant provides for (spec/00_scope.md R12): checked for a whole program before it runs. -/
def Instr.provided (cfg : Config) : Instr → Bool
  | .setAtnIrq _ => cfg.wiredAtn
  | .setClockIrq _ => cfg.wiredClock
  | .parallelInit => cfg.hasParallel
  | .startTimeout _ | .hasTimedOut | .delayUs _ | .delayMs _ | .iecBusRead | .setAtn _ | .setClock _ | .setData _
  | .setSrq _ | .crc7Update _ _ | .crc16Update _ _ | .crc7Block _ _ _ | .crc16Block _ _ _ | .spiInit _
  | .spiSelectDevice _ | .spiTxByte _ | .spiRxByte | .spiTxBlock _ _ | .spiRxBlock _ _ | .spiSetSpeed _ => true

end Sys2Proof
end

