-- ==== Sys2Proof/Decode.lean ====
section
/-!
DEFINITION. The command decoder, total on every word, and the encoder (spec/30_encoding.md R80 to R100).
-/

namespace Sys2Proof

/-- The command formats (spec/30_encoding.md R82 to R91). -/
inductive Format where
  | n
  | b
  | s
  | t
  | d
  | c7
  | c16
  | mb
  | mb7
  | mb16
  deriving DecidableEq, Repr

/-- The rows of the opcode map (spec/30_encoding.md R94). -/
inductive Mnemonic where
  | startTimeout
  | hasTimedOut
  | delayUs
  | delayMs
  | iecBusRead
  | setAtn
  | setClock
  | setData
  | setSrq
  | setAtnIrq
  | setClockIrq
  | crc7Update
  | crc16Update
  | crc7Block
  | crc16Block
  | spiInit
  | spiSelectDevice
  | spiTxByte
  | spiRxByte
  | spiTxBlock
  | spiRxBlock
  | spiSetSpeed
  | parallelInit
  deriving DecidableEq, Repr

/-- Why a word is no command, in the decoder's order of checks (spec/30_encoding.md R95, spec/60_exceptions.md R232). -/
inductive DecodeError where
  | illegalCommand
  | reservedField
  | operandRange
  | notOnArch
  deriving DecidableEq, Repr

/-- The rows in the order of the table (spec/30_encoding.md R94). -/
def Mnemonic.all : List Mnemonic :=
  [.startTimeout, .hasTimedOut, .delayUs, .delayMs, .iecBusRead, .setAtn, .setClock, .setData, .setSrq,
    .setAtnIrq, .setClockIrq, .crc7Update, .crc16Update, .crc7Block, .crc16Block, .spiInit, .spiSelectDevice,
    .spiTxByte, .spiRxByte, .spiTxBlock, .spiRxBlock, .spiSetSpeed, .parallelInit]

/-- The opcode of a row (spec/30_encoding.md R94, column OP). -/
def Mnemonic.op : Mnemonic → BitVec 8
  | .startTimeout => 0x10#8
  | .hasTimedOut => 0x11#8
  | .delayUs => 0x12#8
  | .delayMs => 0x13#8
  | .iecBusRead => 0x20#8
  | .setAtn => 0x21#8
  | .setClock => 0x22#8
  | .setData => 0x23#8
  | .setSrq => 0x24#8
  | .setAtnIrq => 0x30#8
  | .setClockIrq => 0x31#8
  | .crc7Update => 0x40#8
  | .crc16Update => 0x41#8
  | .crc7Block => 0x42#8
  | .crc16Block => 0x43#8
  | .spiInit => 0x50#8
  | .spiSelectDevice => 0x51#8
  | .spiTxByte => 0x52#8
  | .spiRxByte => 0x53#8
  | .spiTxBlock => 0x54#8
  | .spiRxBlock => 0x55#8
  | .spiSetSpeed => 0x56#8
  | .parallelInit => 0x60#8

/-- The format of a row (spec/30_encoding.md R94, column format). -/
def Mnemonic.format : Mnemonic → Format
  | .startTimeout | .delayUs | .delayMs => .t
  | .hasTimedOut | .iecBusRead | .spiRxByte | .parallelInit => .n
  | .setAtn | .setClock | .setData | .setSrq | .setAtnIrq | .setClockIrq | .spiInit | .spiSetSpeed => .b
  | .spiSelectDevice => .s
  | .spiTxByte => .d
  | .crc7Update => .c7
  | .crc16Update => .c16
  | .spiTxBlock | .spiRxBlock => .mb
  | .crc7Block => .mb7
  | .crc16Block => .mb16

/-- The bits of `w0` a format fixes (spec/30_encoding.md R94, column mask). -/
def Format.mask : Format → Word
  | .n => 0xFFFFFFFF#32
  | .b => 0xFFFFFEFF#32
  | .s => 0xFFFFFCFF#32
  | .t => 0x000000FF#32
  | .d => 0xFFFF00FF#32
  | .c7 => 0xFF0000FF#32
  | .c16 => 0x000000FF#32
  | .mb => 0xFFFFFFFF#32
  | .mb7 => 0xFF00FFFF#32
  | .mb16 => 0x0000FFFF#32

/-- The value of the fixed bits of a row: its opcode, every reserved bit 0 (spec/30_encoding.md R94, column match). -/
def Mnemonic.matchWord (m : Mnemonic) : Word :=
  m.op.setWidth 32

/-- Block commands are the rows with two extension words (spec/30_encoding.md R80). -/
def Format.isBlock : Format → Bool
  | .mb | .mb7 | .mb16 => true
  | .n | .b | .s | .t | .d | .c7 | .c16 => false

/-- The length of a command in 32-bit words (spec/30_encoding.md R81). -/
def Mnemonic.words (m : Mnemonic) : Nat :=
  if m.format.isBlock then 3 else 1

/-- The row an opcode selects, if it is assigned (spec/30_encoding.md R94, R97). -/
def Mnemonic.ofOp (op : BitVec 8) : Option Mnemonic :=
  Mnemonic.all.find? fun m => decide (m.op = op)

/-- The preset field of format `B` (spec/30_encoding.md R83). -/
def speedOfBit (v : Bool) : Speed :=
  if v then .fast else .slow

/-- A preset as its bit (spec/10_state.md R32). -/
def bitOfSpeed : Speed → Bool
  | .slow => false
  | .fast => true

/-- The selector field of format `S` (spec/30_encoding.md R84). -/
def selectorOfBits (sel : BitVec 2) : Selector :=
  if sel = 0#2 then .none else if sel = 1#2 then .card0 else if sel = 2#2 then .card1 else .all

/-- A selector as its two bits (spec/10_state.md R33). -/
def bitsOfSelector : Selector → BitVec 2
  | .none => 0#2
  | .card0 => 1#2
  | .card1 => 2#2
  | .all => 3#2

/-- Field `OP` (spec/30_encoding.md R81). -/
def opField (w0 : Word) : BitVec 8 := w0.extractLsb' 0 8

/-- Field `V` (spec/30_encoding.md R83). -/
def vField (w0 : Word) : Bool := w0.getLsbD 8

/-- Field `SEL` (spec/30_encoding.md R84). -/
def selField (w0 : Word) : BitVec 2 := w0.extractLsb' 8 2

/-- Field `IMM24` (spec/30_encoding.md R85). -/
def imm24Field (w0 : Word) : BitVec 24 := w0.extractLsb' 8 24

/-- Field `DATA` (spec/30_encoding.md R86 to R88). -/
def dataField (w0 : Word) : Byte := w0.extractLsb' 8 8

/-- Field `ACC8` (spec/30_encoding.md R87, R90). -/
def acc8Field (w0 : Word) : Byte := w0.extractLsb' 16 8

/-- Field `ACC16` (spec/30_encoding.md R88, R91). -/
def acc16Field (w0 : Word) : BitVec 16 := w0.extractLsb' 16 16

/-- The command of a row with the fields of its format taken from the words (spec/30_encoding.md R95, last line). -/
def Mnemonic.command (m : Mnemonic) (w : Words) : Instr :=
  match m with
  | .startTimeout => .startTimeout (imm24Field w.w0)
  | .hasTimedOut => .hasTimedOut
  | .delayUs => .delayUs (imm24Field w.w0)
  | .delayMs => .delayMs (imm24Field w.w0)
  | .iecBusRead => .iecBusRead
  | .setAtn => .setAtn (vField w.w0)
  | .setClock => .setClock (vField w.w0)
  | .setData => .setData (vField w.w0)
  | .setSrq => .setSrq (vField w.w0)
  | .setAtnIrq => .setAtnIrq (vField w.w0)
  | .setClockIrq => .setClockIrq (vField w.w0)
  | .crc7Update => .crc7Update (acc8Field w.w0) (dataField w.w0)
  | .crc16Update => .crc16Update (acc16Field w.w0) (dataField w.w0)
  | .crc7Block => .crc7Block (acc8Field w.w0) w.w1 w.w2
  | .crc16Block => .crc16Block (acc16Field w.w0) w.w1 w.w2
  | .spiInit => .spiInit (speedOfBit (vField w.w0))
  | .spiSelectDevice => .spiSelectDevice (selectorOfBits (selField w.w0))
  | .spiTxByte => .spiTxByte (dataField w.w0)
  | .spiRxByte => .spiRxByte
  | .spiTxBlock => .spiTxBlock w.w1 w.w2
  | .spiRxBlock => .spiRxBlock w.w1 w.w2
  | .spiSetSpeed => .spiSetSpeed (speedOfBit (vField w.w0))
  | .parallelInit => .parallelInit

/-- Total decoding (spec/30_encoding.md R95): the checks in the order the rule writes them. -/
def decode (cfg : Config) (w : Words) : Except DecodeError Instr :=
  match Mnemonic.ofOp (opField w.w0) with
  | none => .error .illegalCommand
  | some m =>
    if w.w0 &&& m.format.mask ≠ m.matchWord then .error .reservedField
    else if m.format.isBlock = true ∧ cfg.arch = .narrow8 ∧ w.w1.extractLsb' 16 16 ≠ 0#16 then .error .operandRange
    else if (m = .delayUs ∨ m = .delayMs) ∧ cfg.arch = .narrow8 then .error .notOnArch
    else if m = .startTimeout ∧ (imm24Field w.w0 = 0#24 ∨ cfg.toMax < (imm24Field w.w0).toNat) then .error .operandRange
    else .ok (m.command w)

/-- The row a command belongs to. -/
def Instr.mnemonic : Instr → Mnemonic
  | .startTimeout _ => .startTimeout
  | .hasTimedOut => .hasTimedOut
  | .delayUs _ => .delayUs
  | .delayMs _ => .delayMs
  | .iecBusRead => .iecBusRead
  | .setAtn _ => .setAtn
  | .setClock _ => .setClock
  | .setData _ => .setData
  | .setSrq _ => .setSrq
  | .setAtnIrq _ => .setAtnIrq
  | .setClockIrq _ => .setClockIrq
  | .crc7Update _ _ => .crc7Update
  | .crc16Update _ _ => .crc16Update
  | .crc7Block _ _ _ => .crc7Block
  | .crc16Block _ _ _ => .crc16Block
  | .spiInit _ => .spiInit
  | .spiSelectDevice _ => .spiSelectDevice
  | .spiTxByte _ => .spiTxByte
  | .spiRxByte => .spiRxByte
  | .spiTxBlock _ _ => .spiTxBlock
  | .spiRxBlock _ _ => .spiRxBlock
  | .spiSetSpeed _ => .spiSetSpeed
  | .parallelInit => .parallelInit

/-- A field of a command at its place in `w0` (spec/30_encoding.md R96). -/
def placed {n : Nat} (field : BitVec n) (lsb : Nat) : Word := field.setWidth 32 <<< lsb

/-- The operand bits of a command at their places in `w0` (spec/30_encoding.md R82 to R91). -/
def Instr.operandBits : Instr → Word
  | .startTimeout usecs => placed usecs 8
  | .delayUs n => placed n 8
  | .delayMs n => placed n 8
  | .setAtn v => placed (BitVec.ofBool v) 8
  | .setClock v => placed (BitVec.ofBool v) 8
  | .setData v => placed (BitVec.ofBool v) 8
  | .setSrq v => placed (BitVec.ofBool v) 8
  | .setAtnIrq enable => placed (BitVec.ofBool enable) 8
  | .setClockIrq enable => placed (BitVec.ofBool enable) 8
  | .crc7Update acc data => placed acc 16 ||| placed data 8
  | .crc16Update acc data => placed acc 16 ||| placed data 8
  | .crc7Block acc _ _ => placed acc 16
  | .crc16Block acc _ _ => placed acc 16
  | .spiInit speed => placed (BitVec.ofBool (bitOfSpeed speed)) 8
  | .spiSelectDevice dev => placed (bitsOfSelector dev) 8
  | .spiTxByte data => placed data 8
  | .spiSetSpeed speed => placed (BitVec.ofBool (bitOfSpeed speed)) 8
  | .hasTimedOut | .iecBusRead | .spiRxByte | .spiTxBlock _ _ | .spiRxBlock _ _ | .parallelInit => 0#32

/-- The words of a command (spec/30_encoding.md R96); the extension words of a one-word command are 0. -/
def encode (i : Instr) : Words :=
  let w0 := i.mnemonic.matchWord ||| i.operandBits
  match i with
  | .crc7Block _ addr len => ⟨w0, addr, len⟩
  | .crc16Block _ addr len => ⟨w0, addr, len⟩
  | .spiTxBlock addr len => ⟨w0, addr, len⟩
  | .spiRxBlock addr len => ⟨w0, addr, len⟩
  | .startTimeout _ | .hasTimedOut | .delayUs _ | .delayMs _ | .iecBusRead | .setAtn _ | .setClock _ | .setData _
  | .setSrq _ | .setAtnIrq _ | .setClockIrq _ | .crc7Update _ _ | .crc16Update _ _ | .spiInit _ | .spiSelectDevice _
  | .spiTxByte _ | .spiRxByte | .spiSetSpeed _ | .parallelInit => ⟨w0, 0#32, 0#32⟩

/-- The words of an instruction given as one number: bit 0 is the least significant bit of `w0`, the extension words
count on from it, and every bit from `nbits` up is 0. -/
def wordsOfNat (nbits w : Nat) : Words :=
  let v := w % 2 ^ nbits
  ⟨BitVec.ofNat 32 v, BitVec.ofNat 32 (v / 2 ^ 32), BitVec.ofNat 32 (v / 2 ^ 64)⟩

/-- What the decoder reads from an instruction given as one number, on the `WIDE32` configuration that provides
everything (the configuration of `State.reset`, log 1). -/
def decodeTableWord (nbits w : Nat) : Option Instr :=
  (decode (Config.full .wide32) (wordsOfNat nbits w)).toOption

end Sys2Proof
end

