-- ==== Sys2Proof/Machine/State.lean ====
section
/-!
DEFINITION. The state of the machine as plain data: the block fields of spec/10_state.md R45, caller memory, the
environment's levels, the execution contexts of spec/60_exceptions.md R240 and R241, the observable SPI output, and
the moves the environment still has to make. The state after reset (spec/70_reset_and_hazards.md R260 to R262).
-/

namespace Sys2Proof.Machine

/-- Timeout Service state (spec/10_state.md R21 to R23). -/
structure TimeoutUnit where
  /-- `TO_REM` -/
  toRem : Nat
  /-- `TO_EXP` -/
  toExp : Bool
  /-- `NOW`, a value below `2 ^ TICK_W` -/
  now : Nat
  deriving DecidableEq, Repr

/-- Edge-Capture/Interrupt Controller state (spec/10_state.md R28, R29). -/
structure IrqUnit where
  /-- `EDGE_EN[ATN]` -/
  enAtn : Bool
  /-- `EDGE_EN[CLOCK]` -/
  enClock : Bool
  /-- `PEND[EDGE_ATN]` -/
  pendAtn : Bool
  /-- `PEND[EDGE_CLOCK]` -/
  pendClock : Bool
  /-- `PEND[PAR_HS]` -/
  pendPar : Bool
  deriving DecidableEq, Repr

/-- SPI Transport state (spec/10_state.md R31 to R35). -/
structure SpiUnit where
  /-- `SPI_ON` -/
  spiOn : Bool
  /-- `SPI_SPEED` -/
  spiSpeed : Speed
  /-- `SPI_SEL` -/
  spiSel : Selector
  /-- `SPI_BUSY` -/
  spiBusy : Bool
  deriving DecidableEq, Repr

/-- Parallel Handshake Transport state (spec/10_state.md R36 to R40). -/
structure ParUnit where
  /-- `PAR_ON` -/
  parOn : Bool
  /-- `PAR_HS_OUT` -/
  parHsOut : Bool
  /-- `PAR_DATA_OUT` -/
  parDataOut : Byte
  /-- `PAR_EN` -/
  parEn : Bool
  /-- `HS_PREV` -/
  hsPrev : Bool
  deriving DecidableEq, Repr

/-- A line of the parallel port: one of its eight data lines, the driven or the sensed handshake line
(spec/45_parallel.md R222). -/
inductive ParLine where
  | data (k : Fin 8)
  | hsOut
  | hsIn
  deriving DecidableEq, Repr

/-- Caller memory `MEM`: the bytes that differ from 0, at strictly rising addresses (spec/20_memory.md R60; log 9). -/
abbrev Memory := List Host.Cell

/-- A range of admitted addresses of `MEM` (spec/20_memory.md R62, R68). -/
structure Region where
  base : Nat
  size : Nat
  deriving DecidableEq, Repr

/-- The levels the environment drives: the other bus devices (spec/10_state.md R25), the parallel peer (R39) and the
caller's interrupt mask (spec/60_exceptions.md R239). -/
structure Env where
  ext : Lines
  hsIn : Bool
  cpuIe : Bool
  deriving DecidableEq, Repr

/-- Whose program a context runs (spec/60_exceptions.md R240). -/
inductive Owner where
  | main
  | handler (src : Source)
  deriving DecidableEq, Repr

/-- The kind of a block command in progress, with the accumulator of a CRC fold (spec/43_crc.md R176, R177,
spec/44_spi.md R203, R204). -/
inductive Block where
  | crc7 (acc : Byte)
  | crc16 (acc : BitVec 16)
  | spiTx
  | spiRx
  deriving DecidableEq, Repr

/-- A command that has started and not completed: a delay with its `DELAY_LEFT` (spec/40_timeout.md R117), or a block
command with its next address and the bytes it has left (spec/20_memory.md R67). -/
inductive Active where
  | delay (left : Nat)
  | block (kind : Block) (addr : Nat) (left : Nat)
  deriving DecidableEq, Repr

/-- An execution context: harness `pc` and `res`, and the command in progress (spec/30_encoding.md R104,
spec/60_exceptions.md R240). -/
structure Context where
  owner : Owner
  pc : Nat
  res : Word
  active : Option Active
  deriving DecidableEq, Repr

/-- What the SPI devices see of one byte exchanged (spec/44_spi.md R193). -/
structure SpiEvent where
  cs0 : Bool
  cs1 : Bool
  speed : Speed
  tx : Byte
  deriving DecidableEq, Repr

/-- The observable output of the SPI Transport: exchanges and changes of the chip-select lines (spec/44_spi.md R194;
DEDUCED, log 23; safe: a record nothing reads). -/
inductive SpiOut where
  | exchange (e : SpiEvent)
  | select (cs0 cs1 : Bool)
  deriving DecidableEq, Repr

/-- A move of the interleaving (spec/20_memory.md R70, spec/00_scope.md R9). -/
inductive Event where
  /-- the running context takes its step -/
  | run
  /-- one microsecond elapses (spec/40_timeout.md R114) -/
  | time
  /-- the other bus devices drive these levels (spec/41_bus_lines.md R130) -/
  | ext (levels : Lines)
  /-- the parallel peer drives this level (spec/45_parallel.md R223) -/
  | hsIn (level : Bool)
  /-- the caller's code sets its interrupt mask (spec/60_exceptions.md R239) -/
  | cpuIe (enable : Bool)
  /-- the caller's own store to `MEM` (spec/20_memory.md R70), at any boundary (DESIGN CHOICE, log 34; safe) -/
  | store (addr : Nat) (v : Byte)
  /-- a delivery of this source, if it may take place (spec/60_exceptions.md R240) -/
  | deliver (src : Source)
  deriving DecidableEq, Repr

/-- Whose turn the default schedule has when the script is empty (log 12). -/
inductive Turn where
  | caller
  | time
  deriving DecidableEq, Repr

/-- The interleaving: the moves still to come, oldest first, then the default schedule (DESIGN CHOICE, log 12; unsafe
where a statement fixes the script). -/
structure Sched where
  script : List Event
  turn : Turn
  deriving DecidableEq, Repr

/-- What the environment answers to a draw: the SPI bytes still to be received, oldest first (log 14), and the number
of free values used (log 15). Both are the model's own. -/
structure Inputs where
  spiIn : List Byte
  draws : Nat
  deriving DecidableEq, Repr

/-- The state of the machine. -/
structure State where
  cfg : Config
  progs : Programs
  timeout : TimeoutUnit
  /-- `OUT[l]` (spec/10_state.md R24) -/
  out : Lines
  irq : IrqUnit
  spi : SpiUnit
  par : ParUnit
  mem : Memory
  admitted : List Region
  env : Env
  /-- the running context -/
  run : Context
  /-- the interrupted contexts, innermost first (spec/60_exceptions.md R240) -/
  stack : List Context
  /-- the SPI output so far, oldest first -/
  spiOut : List SpiOut
  sched : Sched
  inputs : Inputs
  deriving DecidableEq, Repr

/-- Why a run ends in a fault (spec/60_exceptions.md R234), or a context is stuck (R233). -/
inductive Fault where
  /-- `SPI_UNINIT`, code 0x21: raised by every SPI command but `spi_init` while `SPI_ON = 0` (spec/44_spi.md R191);
  records the command word. Safe: the spec ends the run here. -/
  | spiUninit (w0 : Word)
  /-- `SPI_REENTRY`, code 0x22: raised by every SPI command while `SPI_BUSY = 1` (spec/44_spi.md R192); records the
  command word and the issuing context. Safe: the spec ends the run here. -/
  | spiReentry (w0 : Word) (issuer : Owner)
  /-- `ADDR_WRAP`, code 0x23: raised by the four block commands whose range passes the top of `MEM`
  (spec/20_memory.md R63); records `w0`, `addr`, `len`. Safe: the spec ends the run here. -/
  | addrWrap (w0 : Word) (addr : Word) (len : Word)
  /-- A block command in progress stands at a byte the launch memory does not admit, so its context has no step
  (spec/20_memory.md R62, spec/60_exceptions.md R233); raised when that context is scheduled, the other agents' moves go
  on until then (log 18). Safe: nothing is claimed past it. -/
  | stuckUnadmitted (addr : Nat)
  deriving DecidableEq, Repr

/-- Why the model gives a command or a program no meaning (spec/60_exceptions.md R232). -/
inductive Refusal where
  /-- An instruction `exec` has no meaning for yet: raised by an arm of `exec` only. Safe. No arm is left. -/
  | notModelled (mnemonic : String)
  /-- Code 0x01: unassigned opcode, raised by the decoder (spec/30_encoding.md R97). Safe. -/
  | illegalCommand (w0 : Word)
  /-- Code 0x02: a reserved bit is set, raised by the decoder (spec/30_encoding.md R98). Safe. -/
  | reservedField (w0 : Word)
  /-- Code 0x03: raised by the decoder and by the meanings of `start_timeout` and the block commands
  (spec/30_encoding.md R93, R99). Safe. -/
  | operandRange (w : Words)
  /-- Code 0x04: raised by the decoder and by the meanings of the delays on `NARROW8` (spec/30_encoding.md R99).
  Safe. -/
  | notOnArch (w0 : Word)
  /-- Code 0x10: raised by every step under an ill-formed configuration (spec/00_scope.md R11). Safe. -/
  | configIllFormed (cfg : Config)
  /-- Code 0x11: raised by every step of a program that arms an unwired line, naming its first such line, and by the
  meanings of `set_atn_irq` and `set_clock_irq` (spec/00_scope.md R12). Safe. -/
  | configUnwiredIrq (owner : Owner) (line : Nat)
  /-- Code 0x12: raised by every step of a program that uses the parallel transport where there is none, and by the
  meaning of `parallel_init` (spec/00_scope.md R12). Safe. -/
  | configNoParallel (owner : Owner) (line : Nat)
  deriving DecidableEq, Repr

/-- The code of a fault (spec/60_exceptions.md R234); a stuck context has none. -/
def Fault.code : Fault → Option Nat
  | .spiUninit _ => some 0x21
  | .spiReentry _ _ => some 0x22
  | .addrWrap _ _ _ => some 0x23
  | .stuckUnadmitted _ => none

/-- The code of a refusal (spec/60_exceptions.md R232). -/
def Refusal.code : Refusal → Option Nat
  | .notModelled _ => none
  | .illegalCommand _ => some 0x01
  | .reservedField _ => some 0x02
  | .operandRange _ => some 0x03
  | .notOnArch _ => some 0x04
  | .configIllFormed _ => some 0x10
  | .configUnwiredIrq _ _ => some 0x11
  | .configNoParallel _ _ => some 0x12

/-- The byte an unlisted address of `MEM` reads as (DESIGN CHOICE, log 9; unsafe only where a statement fixes
`mem := []`). -/
def Memory.unlisted : Byte := 0#8

/-- The canonical form of a memory whose addresses all exceed a bound: rising addresses, no entry equal to the
unlisted byte. -/
def Memory.wfFrom : Nat → Memory → Bool
  | _, [] => true
  | lo, (a, v) :: m => decide (lo ≤ a) && decide (v ≠ Memory.unlisted) && Memory.wfFrom (a + 1) m

/-- The canonical form of `MEM`: strictly rising addresses, no entry equal to what an unlisted address reads as. -/
def Memory.wf (m : Memory) : Bool := Memory.wfFrom 0 m

/-- What is chosen from outside before the first step: the configuration, the caller's programs and memory, the
environment's levels and coming moves, and the draws of the unspecified reset values (spec/70_reset_and_hazards.md
R260, R262). -/
structure Launch where
  cfg : Config
  progs : Programs
  mem : Memory
  admitted : List Region
  env : Env
  toExp : Bool
  now : Nat
  spiSpeed : Speed
  parHsOut : Bool
  parDataOut : Byte
  script : List Event
  spiIn : List Byte
  deriving DecidableEq, Repr

/-- The state at reset for a choice of launch values: every field the spec gives a reset value has it
(spec/10_state.md R45), no handler runs and no command is in progress (spec/70_reset_and_hazards.md R261). -/
def State.launch (l : Launch) : State where
  cfg := l.cfg
  progs := l.progs
  timeout := { toRem := 0, toExp := l.toExp, now := l.now % 2 ^ l.cfg.tickW }
  out := ⟨true, true, true, true⟩
  irq := ⟨false, false, false, false, false⟩
  spi := { spiOn := false, spiSpeed := l.spiSpeed, spiSel := .none, spiBusy := false }
  par := { parOn := false, parHsOut := l.parHsOut, parDataOut := l.parDataOut, parEn := false, hsPrev := l.env.hsIn }
  mem := l.mem
  admitted := l.admitted
  env := l.env
  run := { owner := .main, pc := 0, res := 0#32, active := none }
  stack := []
  spiOut := []
  sched := { script := l.script, turn := .caller }
  inputs := { spiIn := l.spiIn, draws := 0 }

/-- The launch values of `State.reset` (DESIGN CHOICE, log 1, 3 to 10, 12, 14, 15; unsafe: each is one of the values
the spec admits). -/
def Launch.default : Launch where
  cfg := Config.full .wide32
  progs := ⟨[], [], [], []⟩
  mem := []
  admitted := [⟨0, 2 ^ 32⟩]
  env := { ext := ⟨true, true, true, true⟩, hsIn := true, cpuIe := true }
  toExp := false
  now := 0
  spiSpeed := .slow
  parHsOut := false
  parDataOut := 0#8
  script := []
  spiIn := []

/-- The machine right after reset (spec/70_reset_and_hazards.md R260, R261). -/
def State.reset : State := State.launch Launch.default

end Sys2Proof.Machine
end

