-- ==== Sys2Proof/Machine/Ops.lean ====
section
/-!
DEFINITION. The named operations over memory, contexts and the environment that the meanings share: byte access to
`MEM`, completion of a command, delivery of a notification and return from its handler, the byte exchange of the SPI
Transport, and the free values of the environment's draws.
-/

namespace Sys2Proof.Machine

/-- The outcome of a step of this machine. -/
abbrev Result := Host.Outcome State Fault Refusal

/-! ### Memory -/

/-- `MemRead(a, 1)` on the contents of `MEM` (spec/20_memory.md R62). -/
def Memory.read : Memory → Nat → Byte
  | [], _ => Memory.unlisted
  | (b, w) :: m, a => if a = b then w else Memory.read m a

/-- `MemWrite(a, 1, v)` on the contents of `MEM` (spec/20_memory.md R62), keeping the canonical form. -/
def Memory.write : Memory → Nat → Byte → Memory
  | [], a, v => if v = Memory.unlisted then [] else [(a, v)]
  | (b, w) :: m, a, v =>
    if a < b then (if v = Memory.unlisted then (b, w) :: m else (a, v) :: (b, w) :: m)
    else if a = b then (if v = Memory.unlisted then m else (a, v) :: m)
    else (b, w) :: Memory.write m a v

/-- The launch memory admits an address of `MEM` (spec/20_memory.md R60, R62). -/
def State.admits (s : State) (a : Nat) : Bool :=
  decide (a < 2 ^ s.cfg.addrW) && s.admitted.any fun r => decide (r.base ≤ a) && decide (a < r.base + r.size)

/-- The byte of `MEM` at an address. -/
def State.readByte (s : State) (a : Nat) : Byte := s.mem.read a

/-- `MEM` with one byte changed. -/
def State.writeByte (s : State) (a : Nat) (v : Byte) : State := { s with mem := s.mem.write a v }

/-! ### Contexts -/

/-- The running context completes its command with a result word and moves to its next line (spec/10_state.md R41,
spec/30_encoding.md R104). -/
def State.complete (s : State) (r : Word) : State :=
  { s with run := { s.run with pc := s.run.pc + 1, res := r, active := none } }

/-- The running context stays at its line with a command in progress. -/
def State.setActive (s : State) (a : Active) : State :=
  { s with run := { s.run with active := some a } }

/-- The running context goes to a line of its program (spec/30_encoding.md R104). -/
def State.jump (s : State) (target : Nat) : State :=
  { s with run := { s.run with pc := target } }

/-- Some handler is running or interrupted (spec/60_exceptions.md R242). -/
def State.handlerRunning (s : State) : Bool := !s.stack.isEmpty

/-! ### Notifications: entry and return -/

/-- `enabled(s)` (spec/60_exceptions.md R238). -/
def State.enabled (s : State) : Source → Bool
  | .edgeAtn => s.irq.enAtn
  | .edgeClock => s.irq.enClock
  | .parHs => s.par.parEn

/-- `PEND[s]` (spec/10_state.md R29). -/
def State.pending (s : State) : Source → Bool
  | .edgeAtn => s.irq.pendAtn
  | .edgeClock => s.irq.pendClock
  | .parHs => s.irq.pendPar

/-- `PEND[s] <- v` (spec/10_state.md R29). -/
def State.setPending (s : State) (src : Source) (v : Bool) : State :=
  match src with
  | .edgeAtn => { s with irq := { s.irq with pendAtn := v } }
  | .edgeClock => { s with irq := { s.irq with pendClock := v } }
  | .parHs => { s with irq := { s.irq with pendPar := v } }

/-- A source is deliverable when it is pending and enabled (spec/60_exceptions.md R238). -/
def State.deliverable (s : State) (src : Source) : Bool := s.pending src && s.enabled src

/-- A delivery of a source may take place: the source is deliverable, `CPU_IE = 1`, and nesting permits
(spec/60_exceptions.md R239, R240, R242). -/
def State.mayDeliver (s : State) (src : Source) : Bool :=
  s.deliverable src && s.env.cpuIe && (decide (s.cfg.irqNesting = .admitted) || !s.handlerRunning)

/-- Taking a notification, the machine's one exception entry (spec/60_exceptions.md R240): the pending bit is cleared,
the running context is pushed, the handler starts at line 0 with `res = 0`. -/
def State.deliver (s : State) (src : Source) : State :=
  let cleared := s.setPending src false
  { cleared with
    run := { owner := .handler src, pc := 0, res := 0#32, active := none }
    stack := s.run :: s.stack }

/-- Return from a handler whose program has ended (spec/60_exceptions.md R241): the interrupted context resumes where
it stood. The main path has nowhere to return to and stays where it ended (spec/60_exceptions.md R253, log 21). -/
def State.endContext (s : State) : State :=
  match s.stack with
  | [] => s
  | c :: rest => { s with run := c, stack := rest }

/-! ### Bus wires -/

/-- The bit of a line. -/
def lineBit (l : Lines) : BusLine → Bool
  | .atn => l.atn
  | .clock => l.clock
  | .data => l.data
  | .srq => l.srq

/-- The bits with that of one line changed. -/
def withLineBit (l : Lines) (line : BusLine) (v : Bool) : Lines :=
  match line with
  | .atn => { l with atn := v }
  | .clock => { l with clock := v }
  | .data => { l with data := v }
  | .srq => { l with srq := v }

/-- `WIRE[l]` (spec/10_state.md R26). -/
def State.wire (s : State) (line : BusLine) : Bool := lineBit s.out line && lineBit s.env.ext line

/-- `PIN_OUT[l]` (spec/10_state.md R27). -/
def State.pinOut (s : State) (line : BusLine) : Bool := lineBit s.out line ^^ lineBit s.cfg.inv line

/-- `PIN_IN[l]` (spec/10_state.md R27). -/
def State.pinIn (s : State) (line : BusLine) : Bool := s.wire line ^^ lineBit s.cfg.inv line

/-! ### Parallel port lines -/

/-- What the block puts on a line of the parallel port: 1 releases it, 0 pulls it low (spec/45_parallel.md R222). The
sensed line is the peer's, and the block never pulls it (spec/10_state.md R39; log 33). -/
def State.parDrive (s : State) : ParLine → Bool
  | .data k => s.par.parDataOut.getLsbD k
  | .hsOut => s.par.parHsOut
  | .hsIn => true

/-- The level of a line of the parallel port, open-drain: low where the block or another device pulls it, else high
(spec/45_parallel.md R222). What the others put on the line is an argument, for the sensed line it is `HS_IN`
(log 33). -/
def State.parWire (s : State) (line : ParLine) (others : Bool) : Bool := s.parDrive line && others

/-! ### SPI lines and exchange -/

/-- `CS[0]` under a selector (spec/10_state.md R34). -/
def cs0Of (sel : Selector) : Bool := decide (sel = .card0) || decide (sel = .all)

/-- `CS[1]` under a selector (spec/10_state.md R34). -/
def cs1Of (sel : Selector) : Bool := decide (sel = .card1) || decide (sel = .all)

/-- `CS[0]` (spec/10_state.md R34). -/
def State.cs0 (s : State) : Bool := cs0Of s.spi.spiSel

/-- `CS[1]` (spec/10_state.md R34). -/
def State.cs1 (s : State) : Bool := cs1Of s.spi.spiSel

/-- `SPI_SEL <- dev`, with the change of the chip-select lines, if there is one, in the SPI output
(spec/44_spi.md R194, R200). -/
def State.selectDevice (s : State) (dev : Selector) : State :=
  { s with
    spi := { s.spi with spiSel := dev }
    spiOut :=
      if cs0Of dev = s.cs0 ∧ cs1Of dev = s.cs1 then s.spiOut else s.spiOut ++ [.select (cs0Of dev) (cs1Of dev)] }

/-- The byte an exchange receives: the next one the devices have ready, else a free value (spec/44_spi.md R193,
log 14). -/
def State.received (s : State) : Byte :=
  match s.inputs.spiIn with
  | [] => Config.freeByte s.inputs.draws
  | b :: _ => b

/-- The inputs after an exchange has received its byte (log 14). -/
def Inputs.afterByte (inp : Inputs) : Inputs :=
  match inp.spiIn with
  | [] => { inp with draws := inp.draws + 1 }
  | _ :: rest => { inp with spiIn := rest }

/-- The record of an exchange that sends a byte (spec/44_spi.md R193). -/
def State.spiEvent (s : State) (tx : Byte) : SpiEvent :=
  { cs0 := s.cs0, cs1 := s.cs1, speed := s.spi.spiSpeed, tx := tx }

/-- The state after `exchange(tx)` (spec/44_spi.md R193); the byte received is `State.received` of the state before. -/
def State.exchanged (s : State) (tx : Byte) : State :=
  { s with spiOut := s.spiOut ++ [.exchange (s.spiEvent tx)], inputs := s.inputs.afterByte }

/-- The sequence of `SpiEvent` records so far (spec/44_spi.md R194). -/
def State.spiEvents (s : State) : List SpiEvent :=
  s.spiOut.filterMap fun o =>
    match o with
    | .exchange e => some e
    | .select _ _ => none

/-! ### Delays below the running context -/

/-- A context whose delay is given a remaining count by a draw no larger than it was (spec/40_timeout.md R122); the
number of free values used before, and after. -/
def Context.drawDelay (c : Context) (draws : Nat) : Context × Nat :=
  match c.active with
  | some (.delay left) => ({ c with active := some (.delay (Config.freeNat draws % (left + 1))) }, draws + 1)
  | some (.block _ _ _) => (c, draws)
  | none => (c, draws)

/-- Every context of a stack that has a delay in progress, drawn from the innermost outwards (spec/40_timeout.md R117,
log 16). -/
def drawDelays : List Context → Nat → List Context × Nat
  | [], draws => ([], draws)
  | c :: rest, draws =>
    let first := c.drawDelay draws
    let others := drawDelays rest first.2
    (first.1 :: others.1, others.2)

/-- The draws a delay makes for the contexts below its own (spec/40_timeout.md R117, first lines). -/
def State.drawInterruptedDelays (s : State) : State :=
  let drawn := drawDelays s.stack s.inputs.draws
  { s with stack := drawn.1, inputs := { s.inputs with draws := drawn.2 } }

end Sys2Proof.Machine
end

