-- ==== Sys2Proof/Machine/Operands.lean ====
section
/-!
DEFINITION. Operand forms: zero extension to a result word (spec/30_encoding.md R92), the harness operand `res`
(R105), the program lines of a context, and the operand checks a meaning repeats from the decoder (R93, R99).
-/

namespace Sys2Proof.Machine

/-- `zext_32` (spec/00_scope.md R14). -/
def zext32 {n : Nat} (v : BitVec n) : Word := v.setWidth 32

/-- A bit as a result word. -/
def wordOfBit (b : Bool) : Word := zext32 (BitVec.ofBool b)

/-- `w0` with its field `ACC8` replaced by `res[7:0]` (spec/30_encoding.md R105). -/
def withAcc8 (w0 res : Word) : Word :=
  (w0 &&& 0xFF00FFFF#32) ||| placed (res.extractLsb' 0 8) 16

/-- `w0` with its field `ACC16` replaced by `res[15:0]` (spec/30_encoding.md R105). -/
def withAcc16 (w0 res : Word) : Word :=
  (w0 &&& 0x0000FFFF#32) ||| placed (res.extractLsb' 0 16) 16

/-- The words of a line whose accumulator operand is `res`, built when the line is reached (spec/30_encoding.md R105);
a command without an accumulator has no such operand and is handed over as it is (log 30). -/
def wordsWithRes (w : Words) (res : Word) : Words :=
  match Mnemonic.ofOp (opField w.w0) with
  | some .crc7Update | some .crc7Block => { w with w0 := withAcc8 w.w0 res }
  | some .crc16Update | some .crc16Block => { w with w0 := withAcc16 w.w0 res }
  | _ => w

/-- The program of a context's owner (spec/60_exceptions.md R240). -/
def programOf (p : Programs) : Owner → List ProgLine
  | .main => p.main
  | .handler .edgeAtn => p.edgeAtn
  | .handler .edgeClock => p.edgeClock
  | .handler .parHs => p.parHs

/-- The line the running context stands at, if its program has one there (spec/30_encoding.md R104). -/
def State.line (s : State) : Option ProgLine := (programOf s.progs s.run.owner)[s.run.pc]?

/-- A meaning under the operand ranges of its command (spec/30_encoding.md R93, R99): out of range it is refused, as
the decoder refuses it. DEDUCED, log 19; safe. -/
def inRange (i : Instr) (s : State) (meaning : Result) : Result :=
  if i.wf s.cfg = true then meaning else .refused (.operandRange (encode i))

/-- A meaning under `WIDE32` (spec/30_encoding.md R99). DEDUCED, log 19; safe. -/
def onWide (i : Instr) (s : State) (meaning : Result) : Result :=
  if i.wf s.cfg = true then meaning else .refused (.notOnArch (encode i).w0)

/-- A meaning under a wired capture channel (spec/00_scope.md R12). DEDUCED, log 19; safe. -/
def whenWired (i : Instr) (s : State) (meaning : Result) : Result :=
  if i.provided s.cfg = true then meaning else .refused (.configUnwiredIrq s.run.owner s.run.pc)

/-- A meaning under a provided parallel transport (spec/00_scope.md R12). DEDUCED, log 19; safe. -/
def whenParallel (i : Instr) (s : State) (meaning : Result) : Result :=
  if i.provided s.cfg = true then meaning else .refused (.configNoParallel s.run.owner s.run.pc)

/-- A meaning under the checks of the SPI commands other than `spi_init`, in their order (spec/44_spi.md R191, R192,
spec/60_exceptions.md R235). -/
def spiReady (i : Instr) (s : State) (meaning : Result) : Result :=
  if s.spi.spiOn = false then .fault (.spiUninit (encode i).w0)
  else if s.spi.spiBusy = true then .fault (.spiReentry (encode i).w0 s.run.owner)
  else meaning

end Sys2Proof.Machine
end

