-- ==== Sys2Proof/Machine/Flags.lean ====
section
/-!
DEFINITION. The status bits that change as a side effect (spec/10_state.md R44): edge detection into `PEND`
(spec/42_edge_irq.md R152, spec/45_parallel.md R223), arming and disarming (R154 to R157), and the expired level with
the time-base step (spec/40_timeout.md R114).
-/

namespace Sys2Proof.Machine

/-- `edge(l)` (spec/42_edge_irq.md R152): an armed source becomes pending; DATA and SRQ have no source. -/
def State.edge (s : State) : BusLine → State
  | .atn => if s.irq.enAtn = true then s.setPending .edgeAtn true else s
  | .clock => if s.irq.enClock = true then s.setPending .edgeClock true else s
  | .data => s
  | .srq => s

/-- The edge of a line, if its wire has left the level it had (spec/42_edge_irq.md R151). -/
def State.edgeIfChanged (s : State) (line : BusLine) (old : Bool) : State :=
  if s.wire line = old then s else s.edge line

/-- `OUT[l] <- v` with the edge it may make (spec/41_bus_lines.md R133, R134). -/
def State.driveLine (s : State) (line : BusLine) (v : Bool) : State :=
  State.edgeIfChanged { s with out := withLineBit s.out line v } line (s.wire line)

/-- The other bus devices drive new levels; a wire that changes makes an edge (spec/41_bus_lines.md R130). -/
def State.setExt (s : State) (levels : Lines) : State :=
  State.edgeIfChanged
    (State.edgeIfChanged { s with env := { s.env with ext := levels } } .atn (s.wire .atn)) .clock (s.wire .clock)

/-- `hs_edge()` (spec/45_parallel.md R223). -/
def State.hsEdge (s : State) : State :=
  if s.env.hsIn = s.par.hsPrev then s
  else
    let seen := if s.par.parEn = true then s.setPending .parHs true else s
    { seen with par := { seen.par with hsPrev := s.env.hsIn } }

/-- The parallel peer drives a level (spec/45_parallel.md R223); without the transport there is no sensed line
(R220, log 26). -/
def State.setHsIn (s : State) (level : Bool) : State :=
  if s.cfg.hasParallel = true then State.hsEdge { s with env := { s.env with hsIn := level } } else s

/-- What a disarm leaves of a pending bit: nothing of a clear one, a free value of a set one (spec/42_edge_irq.md
R156, log 15). -/
def keptPending (pend : Bool) (draws : Nat) : Bool := pend && Config.freeBit draws

/-- The free values used after a disarm (log 15). -/
def drawsAfterDisarm (pend : Bool) (draws : Nat) : Nat := if pend = true then draws + 1 else draws

/-- Arming or disarming the ATN source (spec/42_edge_irq.md R154). -/
def State.armAtn (s : State) (enable : Bool) : State :=
  if enable = true then { s with irq := { s.irq with enAtn := true } }
  else
    { s with
      irq := { s.irq with enAtn := false, pendAtn := keptPending s.irq.pendAtn s.inputs.draws }
      inputs := { s.inputs with draws := drawsAfterDisarm s.irq.pendAtn s.inputs.draws } }

/-- Arming or disarming the CLOCK source (spec/42_edge_irq.md R155). -/
def State.armClock (s : State) (enable : Bool) : State :=
  if enable = true then { s with irq := { s.irq with enClock := true } }
  else
    { s with
      irq := { s.irq with enClock := false, pendClock := keptPending s.irq.pendClock s.inputs.draws }
      inputs := { s.inputs with draws := drawsAfterDisarm s.irq.pendClock s.inputs.draws } }

/-- The Timeout Service's part of a time-base step (spec/40_timeout.md R114). -/
def TimeoutUnit.tick (t : TimeoutUnit) (tickW : Nat) : TimeoutUnit where
  toRem := t.toRem - 1
  toExp := t.toExp || decide (t.toRem = 1)
  now := (t.now + 1) % 2 ^ tickW

/-- A context's part of a time-base step: a delay in progress has one microsecond less left (spec/40_timeout.md R114). -/
def Context.tick (c : Context) : Context :=
  match c.active with
  | some (.delay left) => { c with active := some (.delay (left - 1)) }
  | some (.block _ _ _) => c
  | none => c

/-- The time-base step (spec/40_timeout.md R114). -/
def State.timeStep (s : State) : State :=
  { s with
    timeout := s.timeout.tick s.cfg.tickW
    run := s.run.tick
    stack := s.stack.map Context.tick }

end Sys2Proof.Machine
end

