-- ==== Sys2Proof/Machine/BlockSteps.lean ====
section
/-!
DEFINITION. The CRC update functions (spec/43_crc.md R170, R171) and the per-byte steps the four block commands share
(spec/20_memory.md R62, R63, R67, spec/43_crc.md R176, R177, spec/44_spi.md R203, R204).
-/

namespace Sys2Proof.Machine

/-- One data bit of the CRC-7 update, polynomial 0x09 (spec/43_crc.md R170). -/
def crc7Bit (c : BitVec 7) (bit : Bool) : BitVec 7 :=
  if (c.getLsbD 6 ^^ bit) = true then (c <<< 1) ^^^ 0x09#7 else c <<< 1

/-- `crc7_upd(acc, d)`: bit 7 of the accumulator is ignored on input and 0 on output (spec/43_crc.md R170). -/
def crc7Upd (acc d : Byte) : Byte :=
  (([7, 6, 5, 4, 3, 2, 1, 0].map d.getLsbD).foldl crc7Bit (acc.setWidth 7)).setWidth 8

/-- One shift of the CRC-16 update, polynomial 0x1021 (spec/43_crc.md R171). -/
def crc16Shift (c : BitVec 16) : BitVec 16 :=
  if c.getLsbD 15 = true then (c <<< 1) ^^^ 0x1021#16 else c <<< 1

/-- `crc16_upd(acc, d)` (spec/43_crc.md R171). -/
def crc16Upd (acc : BitVec 16) (d : Byte) : BitVec 16 :=
  Nat.repeat crc16Shift 8 (acc ^^^ (d.setWidth 16 <<< 8))

/-- `block_f` for CRC-7 (spec/43_crc.md R173). -/
def crc7Fold (acc : Byte) (bytes : List Byte) : Byte := bytes.foldl crc7Upd acc

/-- `block_f` for CRC-16 (spec/43_crc.md R173). -/
def crc16Fold (acc : BitVec 16) (bytes : List Byte) : BitVec 16 := bytes.foldl crc16Upd acc

/-- The bytes of `MEM` at `len` addresses from `addr` up (spec/20_memory.md R63). -/
def State.bytesAt (s : State) (addr : Nat) : Nat → List Byte
  | 0 => []
  | len + 1 => s.readByte addr :: s.bytesAt (addr + 1) len

/-- The byte a receive transmits (spec/44_spi.md R196). -/
def fillByte : Byte := 0xFF#8

/-- The result word of a block command whose bytes are done (spec/43_crc.md R176, R177, spec/44_spi.md R203, R204). -/
def Block.result : Block → Word
  | .crc7 acc => zext32 acc
  | .crc16 acc => zext32 acc
  | .spiTx => 0#32
  | .spiRx => 0#32

/-- A block command of the SPI Transport. -/
def Block.isSpi : Block → Bool
  | .crc7 _ => false
  | .crc16 _ => false
  | .spiTx => true
  | .spiRx => true

/-- `SPI_BUSY <- v` by the SPI block commands; the CRC block commands write no block state (spec/44_spi.md R203,
spec/43_crc.md R172). -/
def Block.markBusy (k : Block) (v : Bool) (s : State) : State :=
  if k.isSpi = true then { s with spi := { s.spi with spiBusy := v } } else s

/-- What a block command holds after the byte at an address (spec/43_crc.md R176, R177). -/
def Block.afterByte (k : Block) (addr : Nat) (s : State) : Block :=
  match k with
  | .crc7 acc => .crc7 (crc7Upd acc (s.readByte addr))
  | .crc16 acc => .crc16 (crc16Upd acc (s.readByte addr))
  | .spiTx => .spiTx
  | .spiRx => .spiRx

/-- What a block command does to the machine at the byte of an address (spec/43_crc.md R176, R177, spec/44_spi.md
R203, R204). -/
def Block.access (k : Block) (addr : Nat) (s : State) : State :=
  match k with
  | .crc7 _ => s
  | .crc16 _ => s
  | .spiTx => s.exchanged (s.readByte addr)
  | .spiRx => (s.exchanged fillByte).writeByte addr s.received

/-- One byte of a block command that has `left` bytes to go, and its end after the last; at an address that is not
admitted there is no step (spec/20_memory.md R62, R67; log 17, log 18). -/
def blockByte (k : Block) (addr left : Nat) (s : State) : Result :=
  match left with
  | 0 => .next (s.complete k.result)
  | rest + 1 =>
    if s.admits addr = true then
      if rest = 0 then .next ((k.markBusy false (k.access addr s)).complete (k.afterByte addr s).result)
      else .next ((k.access addr s).setActive (.block (k.afterByte addr s) (addr + 1) rest))
    else .fault (.stuckUnadmitted addr)

/-- A block command as it is issued: the wrap check before any access, nothing at length 0, else the step of byte 0
(spec/20_memory.md R63; log 17). Where byte 0 is not admitted the command has started, an SPI block command with
`SPI_BUSY = 1`, and its context stands at that byte (spec/44_spi.md R203, R204; log 18). -/
def startBlock (i : Instr) (k : Block) (addr len : Word) (s : State) : Result :=
  if len = 0#32 then .next (s.complete k.result)
  else if 2 ^ s.cfg.addrW < addr.toNat + len.toNat then .fault (.addrWrap (encode i).w0 addr len)
  else if s.admits addr.toNat = true then blockByte k addr.toNat len.toNat (k.markBusy true s)
  else .next ((k.markBusy true s).setActive (.block k addr.toNat len.toNat))

end Sys2Proof.Machine
end

