-- ==== Sys2Proof/Machine/BusLines.lean ====
section
/-!
DEFINITION. Bus Line Driver/Sampler (spec/41_bus_lines.md): the meanings of `iec_bus_read`, `set_atn`, `set_clock`,
`set_data` and `set_srq`.
-/

namespace Sys2Proof.Machine

/-- The snapshot: ATN in bit 0, CLOCK in bit 1, DATA in bit 2, SRQ in bit 3, the rest 0 (spec/41_bus_lines.md R131). -/
def State.snapshot (s : State) : Word :=
  wordOfBit (s.wire .atn) ||| (wordOfBit (s.wire .clock) <<< 1) ||| (wordOfBit (s.wire .data) <<< 2) |||
    (wordOfBit (s.wire .srq) <<< 3)

/-- `iec_bus_read` (spec/41_bus_lines.md R132). -/
def execIecBusRead (s : State) : Result :=
  .next (s.complete s.snapshot)

/-- `set_atn state` (spec/41_bus_lines.md R133). -/
def execSetAtn (v : Bool) (s : State) : Result :=
  .next ((s.driveLine .atn v).complete 0#32)

/-- `set_clock state` (spec/41_bus_lines.md R134). -/
def execSetClock (v : Bool) (s : State) : Result :=
  .next ((s.driveLine .clock v).complete 0#32)

/-- `set_data state` (spec/41_bus_lines.md R135). -/
def execSetData (v : Bool) (s : State) : Result :=
  .next ((s.driveLine .data v).complete 0#32)

/-- `set_srq state` (spec/41_bus_lines.md R136). -/
def execSetSrq (v : Bool) (s : State) : Result :=
  .next ((s.driveLine .srq v).complete 0#32)

end Sys2Proof.Machine
end

