-- ==== Sys2Proof/Machine/Crc.lean ====
section
/-!
DEFINITION. CRC Engine (spec/43_crc.md): the meanings of `crc7_update`, `crc16_update`, `crc7_block` and
`crc16_block`.
-/

namespace Sys2Proof.Machine

/-- `crc7_update acc8, byte` (spec/43_crc.md R174). -/
def execCrc7Update (acc data : Byte) (s : State) : Result :=
  .next (s.complete (zext32 (crc7Upd acc data)))

/-- `crc16_update acc16, byte` (spec/43_crc.md R175). -/
def execCrc16Update (acc : BitVec 16) (data : Byte) (s : State) : Result :=
  .next (s.complete (zext32 (crc16Upd acc data)))

/-- `crc7_block acc8, addr, len` (spec/43_crc.md R176). -/
def execCrc7Block (acc : Byte) (addr len : Word) (s : State) : Result :=
  inRange (.crc7Block acc addr len) s (startBlock (.crc7Block acc addr len) (.crc7 acc) addr len s)

/-- `crc16_block acc16, addr, len` (spec/43_crc.md R177). -/
def execCrc16Block (acc : BitVec 16) (addr len : Word) (s : State) : Result :=
  inRange (.crc16Block acc addr len) s (startBlock (.crc16Block acc addr len) (.crc16 acc) addr len s)

end Sys2Proof.Machine
end

