-- ==== Sys2Proof/Machine/EdgeIrq.lean ====
section
/-!
DEFINITION. Edge-Capture/Interrupt Controller (spec/42_edge_irq.md): the meanings of `set_atn_irq` and
`set_clock_irq`.
-/

namespace Sys2Proof.Machine

/-- `set_atn_irq enable` (spec/42_edge_irq.md R154). -/
def execSetAtnIrq (enable : Bool) (s : State) : Result :=
  whenWired (.setAtnIrq enable) s (.next ((s.armAtn enable).complete 0#32))

/-- `set_clock_irq enable` (spec/42_edge_irq.md R155). -/
def execSetClockIrq (enable : Bool) (s : State) : Result :=
  whenWired (.setClockIrq enable) s (.next ((s.armClock enable).complete 0#32))

end Sys2Proof.Machine
end

