-- ==== Sys2Proof/Machine/Parallel.lean ====
section
/-!
DEFINITION. Parallel Handshake Transport (spec/45_parallel.md): the meaning of `parallel_init`.
-/

namespace Sys2Proof.Machine

/-- The transport configured: every line released, the sensed level taken as seen, notifications on
(spec/45_parallel.md R221). -/
def State.initParallel (s : State) : State :=
  { s with par := { parOn := true, parHsOut := true, parDataOut := 0xFF#8, parEn := true, hsPrev := s.env.hsIn } }

/-- `parallel_init` (spec/45_parallel.md R221). -/
def execParallelInit (s : State) : Result :=
  whenParallel .parallelInit s (.next (s.initParallel.complete 0#32))

end Sys2Proof.Machine
end

