-- ==== Sys2Proof/Machine/Spi.lean ====
section
/-!
DEFINITION. SPI Transport (spec/44_spi.md): the clock of R197 and the meanings of `spi_init`, `spi_select_device`,
`spi_tx_byte`, `spi_rx_byte`, `spi_tx_block`, `spi_rx_block` and `spi_set_speed`.
-/

namespace Sys2Proof.Machine

/-- `SPI_DIV_p` (spec/44_spi.md R197). -/
def spiDivisor (cfg : Config) : Speed → Nat
  | .slow => cfg.spiDivSlow
  | .fast => cfg.spiDivFast

/-- The serial clock frequency in Hz under a preset (spec/44_spi.md R197). -/
def spiClock (cfg : Config) (p : Speed) : Rat := (cfg.spiRefClk : Rat) / (spiDivisor cfg p : Rat)

/-- `SPI_SPEED <- speed`. -/
def State.setSpeed (s : State) (speed : Speed) : State :=
  { s with spi := { s.spi with spiSpeed := speed } }

/-- `SPI_ON <- 1`. -/
def State.turnSpiOn (s : State) : State :=
  { s with spi := { s.spi with spiOn := true } }

/-- `spi_init speed` (spec/44_spi.md R199, R209). -/
def execSpiInit (speed : Speed) (s : State) : Result :=
  if s.spi.spiBusy = true then .fault (.spiReentry (encode (.spiInit speed)).w0 s.run.owner)
  else .next (((s.turnSpiOn.setSpeed speed).selectDevice .none).complete 0#32)

/-- `spi_select_device dev` (spec/44_spi.md R200). -/
def execSpiSelectDevice (dev : Selector) (s : State) : Result :=
  spiReady (.spiSelectDevice dev) s (.next ((s.selectDevice dev).complete 0#32))

/-- `spi_tx_byte byte` (spec/44_spi.md R201). -/
def execSpiTxByte (data : Byte) (s : State) : Result :=
  spiReady (.spiTxByte data) s (.next ((s.exchanged data).complete (zext32 s.received)))

/-- `spi_rx_byte` (spec/44_spi.md R202). -/
def execSpiRxByte (s : State) : Result :=
  spiReady .spiRxByte s (.next ((s.exchanged fillByte).complete (zext32 s.received)))

/-- `spi_tx_block addr, len` (spec/44_spi.md R203). -/
def execSpiTxBlock (addr len : Word) (s : State) : Result :=
  inRange (.spiTxBlock addr len) s
    (spiReady (.spiTxBlock addr len) s (startBlock (.spiTxBlock addr len) .spiTx addr len s))

/-- `spi_rx_block addr, len` (spec/44_spi.md R204). -/
def execSpiRxBlock (addr len : Word) (s : State) : Result :=
  inRange (.spiRxBlock addr len) s
    (spiReady (.spiRxBlock addr len) s (startBlock (.spiRxBlock addr len) .spiRx addr len s))

/-- `spi_set_speed speed` (spec/44_spi.md R205). -/
def execSpiSetSpeed (speed : Speed) (s : State) : Result :=
  spiReady (.spiSetSpeed speed) s (.next ((s.setSpeed speed).complete 0#32))

end Sys2Proof.Machine
end

