-- ==== Sys2Proof/Machine/Timeout.lean ====
section
/-!
DEFINITION. Timeout Service (spec/40_timeout.md): the tick arithmetic of R110 and the meanings of `start_timeout`,
`has_timed_out`, `delay_us` and `delay_ms`.
-/

namespace Sys2Proof.Machine

/-- `delta(a, b)` of two tick values (spec/40_timeout.md R110). -/
def tickDelta {w : Nat} (a b : BitVec w) : Int := (a - b).toInt

/-- `after(a, b)` (spec/40_timeout.md R110). -/
def tickAfter {w : Nat} (a b : BitVec w) : Bool := decide (0 < tickDelta a b)

/-- The deadline armed, any deadline already counting discarded (spec/40_timeout.md R115). -/
def State.armTimeout (s : State) (usecs : Nat) : State :=
  { s with timeout := { s.timeout with toRem := s.cfg.ticks usecs, toExp := false } }

/-- A delay of some microseconds in the issuing context, after the draws for the contexts below it
(spec/40_timeout.md R117). -/
def startDelay (usecs : Nat) (s : State) : State :=
  if usecs = 0 then s.drawInterruptedDelays.complete 0#32 else s.drawInterruptedDelays.setActive (.delay usecs)

/-- A step of a context that is in a delay: it completes when nothing is left, and holds until then
(spec/40_timeout.md R117, log 21). -/
def holdDelay (left : Nat) (s : State) : State :=
  if left = 0 then s.complete 0#32 else s

/-- `start_timeout usecs` (spec/40_timeout.md R115). -/
def execStartTimeout (usecs : BitVec 24) (s : State) : Result :=
  inRange (.startTimeout usecs) s (.next ((s.armTimeout usecs.toNat).complete 0#32))

/-- `has_timed_out` (spec/40_timeout.md R116). -/
def execHasTimedOut (s : State) : Result :=
  .next (s.complete (wordOfBit s.timeout.toExp))

/-- `delay_us n` (spec/40_timeout.md R117). -/
def execDelayUs (n : BitVec 24) (s : State) : Result :=
  onWide (.delayUs n) s (.next (startDelay n.toNat s))

/-- `delay_ms n` (spec/40_timeout.md R118). -/
def execDelayMs (n : BitVec 24) (s : State) : Result :=
  onWide (.delayMs n) s (.next (startDelay (1000 * n.toNat) s))

end Sys2Proof.Machine
end

