-- ==== Sys2Proof/Machine/Dispatch.lean ====
section
/-!
DEFINITION. The meaning of each command (spec/30_encoding.md R94, column semantics).
-/

namespace Sys2Proof.Machine

def exec (i : Instr) (s : State) : Host.Outcome State Fault Refusal :=
  match i with
  | .startTimeout usecs => Sys2Proof.Machine.execStartTimeout usecs s
  | .hasTimedOut => Sys2Proof.Machine.execHasTimedOut s
  | .delayUs n => Sys2Proof.Machine.execDelayUs n s
  | .delayMs n => Sys2Proof.Machine.execDelayMs n s
  | .iecBusRead => Sys2Proof.Machine.execIecBusRead s
  | .setAtn v => Sys2Proof.Machine.execSetAtn v s
  | .setClock v => Sys2Proof.Machine.execSetClock v s
  | .setData v => Sys2Proof.Machine.execSetData v s
  | .setSrq v => Sys2Proof.Machine.execSetSrq v s
  | .setAtnIrq enable => Sys2Proof.Machine.execSetAtnIrq enable s
  | .setClockIrq enable => Sys2Proof.Machine.execSetClockIrq enable s
  | .crc7Update acc data => Sys2Proof.Machine.execCrc7Update acc data s
  | .crc16Update acc data => Sys2Proof.Machine.execCrc16Update acc data s
  | .crc7Block acc addr len => Sys2Proof.Machine.execCrc7Block acc addr len s
  | .crc16Block acc addr len => Sys2Proof.Machine.execCrc16Block acc addr len s
  | .spiInit speed => Sys2Proof.Machine.execSpiInit speed s
  | .spiSelectDevice dev => Sys2Proof.Machine.execSpiSelectDevice dev s
  | .spiTxByte data => Sys2Proof.Machine.execSpiTxByte data s
  | .spiRxByte => Sys2Proof.Machine.execSpiRxByte s
  | .spiTxBlock addr len => Sys2Proof.Machine.execSpiTxBlock addr len s
  | .spiRxBlock addr len => Sys2Proof.Machine.execSpiRxBlock addr len s
  | .spiSetSpeed speed => Sys2Proof.Machine.execSpiSetSpeed speed s
  | .parallelInit => Sys2Proof.Machine.execParallelInit s

end Sys2Proof.Machine
end

