-- ==== Sys2Proof/Machine/Harness.lean ====
section
/-!
DEFINITION. The caller harness and the interleaving: issuing a command, harness lines (spec/30_encoding.md R103 to
R105), the moves of the environment (spec/20_memory.md R70, spec/60_exceptions.md R240), the default schedule when the
script is empty, and the checks before any step (spec/00_scope.md R11, R12).
-/

namespace Sys2Proof.Machine

/-! ### The running context's step -/

/-- The refusal a decoder error stands for, with what it records (spec/60_exceptions.md R232). -/
def refusalOf (w : Words) : DecodeError → Refusal
  | .illegalCommand => .illegalCommand w.w0
  | .reservedField => .reservedField w.w0
  | .operandRange => .operandRange w
  | .notOnArch => .notOnArch w.w0

/-- A command handed to the block: decoded, then executed (spec/30_encoding.md R80, R95). -/
def issue (w : Words) (s : State) : Result :=
  match decode s.cfg w with
  | .ok i => exec i s
  | .error e => .refused (refusalOf w e)

/-- A line of the running context's program (spec/30_encoding.md R104, R105); its program ends at `halt` or past its
last line (spec/60_exceptions.md R241). -/
def runLine (line : Option ProgLine) (s : State) : Result :=
  match line with
  | none => .next s.endContext
  | some .halt => .next s.endContext
  | some .label => .next (s.jump (s.run.pc + 1))
  | some (.b target) => .next (s.jump target)
  | some (.bz target) => .next (s.jump (if s.run.res = 0#32 then target else s.run.pc + 1))
  | some (.bnz target) => .next (s.jump (if s.run.res = 0#32 then s.run.pc + 1 else target))
  | some (.cmd w) => issue w s
  | some (.cmdRes w) => issue (wordsWithRes w s.run.res) s

/-- The step of the running context: the next byte of its block command, the hold of its delay, or its next line
(spec/60_exceptions.md R243). -/
def contextStep (s : State) : Result :=
  match s.run.active with
  | some (.block k addr left) => blockByte k addr left s
  | some (.delay left) => .next (holdDelay left s)
  | none => runLine s.line s

/-- A context's program has ended (spec/60_exceptions.md R253). A main path that stands at a `halt` line counts as ended
before `halt` takes a step, which the spec leaves open (DESIGN CHOICE, log 21; safe but for a claim about the first finished
state alone). -/
def State.atEnd (s : State) : Bool :=
  decide (s.run.active = none) && (decide (s.line = none) || decide (s.line = some .halt))

/-! ### The environment's moves -/

/-- The caller's own store to a byte of `MEM` it owns (spec/20_memory.md R70; log 24). The spec makes it a step of the
caller and gives it no line of a program, so it is a move that may come at any boundary, between two bytes of the
caller's own block command too (DESIGN CHOICE, log 34; safe: it only allows more interleavings). -/
def State.callerStore (s : State) (addr : Nat) (v : Byte) : State :=
  if s.admits addr = true then s.writeByte addr v else s

/-- A delivery, where it may take place (spec/60_exceptions.md R240; log 25). -/
def State.tryDeliver (s : State) (src : Source) : State :=
  if s.mayDeliver src = true then s.deliver src else s

/-- A move of the interleaving (spec/20_memory.md R70); that a store of the caller is one at any boundary is the model's
choice (log 34). -/
def move (e : Event) (s : State) : Result :=
  match e with
  | .run => contextStep s
  | .time => .next s.timeStep
  | .ext levels => .next (s.setExt levels)
  | .hsIn level => .next (s.setHsIn level)
  | .cpuIe enable => .next { s with env := { s.env with cpuIe := enable } }
  | .store addr v => .next (s.callerStore addr v)
  | .deliver src => .next (s.tryDeliver src)

/-! ### The default schedule -/

/-- The sources whose delivery may take place (spec/60_exceptions.md R240). -/
def State.deliverables (s : State) : List Source :=
  [Source.edgeAtn, Source.edgeClock, Source.parHs].filter s.mayDeliver

/-- The source the default schedule delivers next: the only one, or a free choice among several (spec/60_exceptions.md
R244; log 13). -/
def State.chooseSource (s : State) : Option Source :=
  match s.deliverables with
  | [] => none
  | [src] => some src
  | first :: rest => some ((first :: rest).getD (Config.freeNat s.inputs.draws % (rest.length + 1)) first)

/-- The free values used after the choice (log 13). -/
def State.drawsAfterChoice (s : State) : Nat :=
  if 1 < s.deliverables.length then s.inputs.draws + 1 else s.inputs.draws

/-- The default schedule hands the turn over. -/
def State.setTurn (s : State) (turn : Turn) : State := { s with sched := { s.sched with turn := turn } }

/-- The move the default schedule makes: time and the caller take turns, and a deliverable source goes before the
caller (spec/40_timeout.md R114, spec/60_exceptions.md R240; log 27). DESIGN CHOICE, log 12; unsafe where a statement
rests on an empty script. -/
def defaultMove (s : State) : Result :=
  match s.sched.turn with
  | .time => .next (s.setTurn .caller).timeStep
  | .caller =>
    match s.chooseSource with
    | some src => .next { (s.setTurn .time).deliver src with inputs := { s.inputs with draws := s.drawsAfterChoice } }
    | none => contextStep (s.setTurn .time)

/-- The next move of the interleaving: the script's first, or the default schedule's (log 12). -/
def interleave (s : State) : Result :=
  match s.sched.script with
  | e :: rest => move e { s with sched := { s.sched with script := rest } }
  | [] => defaultMove s

/-! ### Checks before any step -/

/-- The refusal of a line whose command the variant does not provide for (spec/00_scope.md R12). -/
def lineRefusal (cfg : Config) (owner : Owner) (n : Nat) (line : ProgLine) : Option Refusal :=
  match line with
  | .cmd w | .cmdRes w =>
    match decode cfg w with
    | .ok i =>
      if i.provided cfg = true then none
      else if i = .parallelInit then some (.configNoParallel owner n)
      else some (.configUnwiredIrq owner n)
    | .error _ => none
  | .label | .b _ | .bz _ | .bnz _ | .halt => none

/-- The refusal of a program from a line on: that of its first line the variant does not provide for. -/
def programRefusal (cfg : Config) (owner : Owner) : Nat → List ProgLine → Option Refusal
  | _, [] => none
  | n, line :: rest =>
    match lineRefusal cfg owner n line with
    | some r => some r
    | none => programRefusal cfg owner (n + 1) rest

/-- The refusal of a configuration and the caller's programs as a whole (spec/00_scope.md R11, R12; log 20). -/
def launchRefusal (cfg : Config) (progs : Programs) : Option Refusal :=
  if cfg.wf = false then some (.configIllFormed cfg)
  else
    (programRefusal cfg .main 0 progs.main).or
      ((programRefusal cfg (.handler .edgeAtn) 0 progs.edgeAtn).or
        ((programRefusal cfg (.handler .edgeClock) 0 progs.edgeClock).or
          (programRefusal cfg (.handler .parHs) 0 progs.parHs)))

/-- A run has ended: the main program has ended, no handler runs, no command is in progress; a run that is refused has
no final state (spec/60_exceptions.md R253). -/
def State.finished (s : State) : Bool :=
  (launchRefusal s.cfg s.progs).isNone && s.atEnd && s.stack.isEmpty

/-- One step of the machine: nothing under a refused configuration or program, else the next move of the
interleaving (spec/60_exceptions.md R231). -/
def machineStep (s : State) : Result :=
  match launchRefusal s.cfg s.progs with
  | some r => .refused r
  | none => interleave s

/-! ### Placing a command where the next step runs it -/

/-- A program with a line placed at an index; lines before it that do not exist yet become labels. -/
def placeLine (p : List ProgLine) (n : Nat) (line : ProgLine) : List ProgLine :=
  p.take n ++ List.replicate (n - p.length) .label ++ [line] ++ p.drop (n + 1)

/-- The programs with a line placed in one of them. -/
def placeIn (p : Programs) (owner : Owner) (n : Nat) (line : ProgLine) : Programs :=
  match owner with
  | .main => { p with main := placeLine p.main n line }
  | .handler .edgeAtn => { p with edgeAtn := placeLine p.edgeAtn n line }
  | .handler .edgeClock => { p with edgeClock := placeLine p.edgeClock n line }
  | .handler .parHs => { p with parHs := placeLine p.parHs n line }

/-- The machine with a command as the running context's next line, nothing in progress in that context, and the
context's step as the next move (log 10). -/
def State.withCommand (s : State) (w : Words) : State :=
  { s with
    progs := placeIn s.progs s.run.owner s.run.pc (.cmd w)
    run := { s.run with active := none }
    sched := { s.sched with script := .run :: s.sched.script } }

end Sys2Proof.Machine
end

