-- ==== Sys2Proof/Machine/Step.lean ====
section
/-!
DEFINITION. One step of the machine, and the placing of an instruction where the next step runs it.
-/

namespace Sys2Proof.Machine

/-- One step: one atomic step of one agent (spec/20_memory.md R70). -/
def step (s : State) : Host.Outcome State Fault Refusal := machineStep s

/-- The machine with an instruction, given as one number, placed so that the very next step runs it (log 10). -/
def State.withFetchWord (s : State) (nbits w : Nat) : State := s.withCommand (wordsOfNat nbits w)

end Sys2Proof.Machine
end

