-- ==== Sys2Proof/Safety.lean ====
section
/-!
DEFINITION. What the claims about the machine are said in: the invariant of its states, the run of one context, and
the run of a script.
-/

namespace Sys2Proof.Machine

/-- The contexts, the running one first (spec/60_exceptions.md R240). -/
def State.contexts (s : State) : List Context := s.run :: s.stack

/-- A context is between the first and the last byte of an SPI block command (spec/10_state.md R35). -/
def Context.inSpiBlock (c : Context) : Bool :=
  match c.active with
  | some (.block k _ _) => k.isSpi
  | some (.delay _) => false
  | none => false

/-- The main path lies below the handlers, and nothing else does (spec/60_exceptions.md R240, R251). -/
def stackShape : List Context → Bool
  | [] => false
  | [c] => decide (c.owner = .main)
  | c :: rest => decide (c.owner ≠ .main) && stackShape rest

/-- A command in progress is one the configuration admits: a delay only on `WIDE32` and no longer than `delay_ms`
makes it (spec/40_timeout.md R117, R118), a block command with bytes left that end within `MEM`
(spec/20_memory.md R63). -/
def Context.activeOk (cfg : Config) (c : Context) : Bool :=
  match c.active with
  | none => true
  | some (.delay left) => decide (cfg.arch = .wide32) && decide (left ≤ 1000 * (2 ^ 24 - 1))
  | some (.block _ addr left) => decide (0 < left) && decide (addr + left ≤ 2 ^ cfg.addrW)

/-- What holds in every state a run reaches. -/
structure State.Inv (s : State) : Prop where
  /-- `MEM` has its canonical form. -/
  memForm : s.mem.wf = true
  /-- `MEM` has no byte outside its address space (spec/20_memory.md R60). -/
  memBound : ∀ c ∈ s.mem, c.1 < 2 ^ s.cfg.addrW
  /-- `TO_REM` lies in `0..TO_MAX` (spec/10_state.md R21). -/
  deadline : s.timeout.toRem ≤ s.cfg.toMax
  /-- While a deadline counts, the level is clear (spec/40_timeout.md R114, R115). -/
  counting : 0 < s.timeout.toRem → s.timeout.toExp = false
  /-- `NOW` is a `uTICK_W` (spec/10_state.md R23). -/
  tick : s.timeout.now < 2 ^ s.cfg.tickW
  /-- The main path is the outermost context (spec/60_exceptions.md R240). -/
  shape : stackShape s.contexts = true
  /-- Without nesting at most one handler runs (spec/60_exceptions.md R242). -/
  nesting : s.cfg.irqNesting = .excluded → s.stack.length ≤ 1
  /-- Every command in progress is one the configuration admits. -/
  active : ∀ c ∈ s.contexts, c.activeOk s.cfg = true
  /-- `SPI_BUSY` is 1 exactly while one SPI block command is between its bytes (spec/10_state.md R35). -/
  busy : s.contexts.countP Context.inSpiBlock = s.spi.spiBusy.toNat
  /-- An SPI block command runs only after `spi_init` (spec/44_spi.md R191). -/
  busyOn : s.spi.spiBusy = true → s.spi.spiOn = true
  /-- The edge detector has seen the sensed level (spec/45_parallel.md R223). -/
  handshake : s.par.hsPrev = s.env.hsIn
  /-- `parallel_init` enables the notifications and nothing disables them (spec/10_state.md R40). -/
  parEnabled : s.par.parEn = s.par.parOn
  /-- After `parallel_init` the lines keep the levels it set (spec/45_parallel.md R225). -/
  parLines : s.par.parOn = true → s.par.parHsOut = true ∧ s.par.parDataOut = 0xFF#8
  /-- A handshake notification is pending only once enabled (spec/45_parallel.md R223). -/
  parPending : s.irq.pendPar = true → s.par.parEn = true
  /-- Without the transport its state never changes and its source never fires (spec/45_parallel.md R220). -/
  parAbsent : s.cfg.hasParallel = false → s.par.parOn = false
  /-- An unwired line is never armed (spec/42_edge_irq.md R150). -/
  unwiredAtn : s.cfg.wiredAtn = false → s.irq.enAtn = false ∧ s.irq.pendAtn = false
  /-- An unwired line is never armed (spec/42_edge_irq.md R150). -/
  unwiredClock : s.cfg.wiredClock = false → s.irq.enClock = false ∧ s.irq.pendClock = false

/-- Steps of the running context, one after the other, with no move of another agent between them. -/
def contextRun : Nat → State → Result
  | 0, s => .next s
  | n + 1, s =>
    match contextStep s with
    | .next t => contextRun n t
    | .fault f => .fault f
    | .refused r => .refused r

/-- Moves of the interleaving, one after the other. -/
def runMoves : List Event → State → Result
  | [], s => .next s
  | e :: rest, s =>
    match move e s with
    | .next t => runMoves rest t
    | .fault f => .fault f
    | .refused r => .refused r

/-- Microseconds that elapse one after the other (spec/40_timeout.md R114). -/
def timeSteps : Nat → State → State
  | 0, s => s
  | n + 1, s => timeSteps n s.timeStep

/-- The state of a step that answers one. -/
def resultState : Result → Option State
  | .next s => some s
  | .fault _ => none
  | .refused _ => none

/-- The fault of a step that ends in one. -/
def resultFault : Result → Option Fault
  | .next _ => none
  | .fault f => some f
  | .refused _ => none

/-- The refusal of a step that ends in one. -/
def resultRefusal : Result → Option Refusal
  | .next _ => none
  | .fault _ => none
  | .refused r => some r

end Sys2Proof.Machine
end

