-- ==== Sys2Proof/Certificates/Slice0/Obligations.lean ====
section
/-!
DEFINITION. The statements about the machine, from the numbered rules of spec/, and the words they are said in.
-/

namespace Sys2Proof.Claims

open Sys2Proof Sys2Proof.Machine

/-- The running context after a command that completes with a result word (spec/30_encoding.md R104). -/
def doneWith (s : State) (r : Word) : Context :=
  { s.run with pc := s.run.pc + 1, res := r, active := none }

/-- The running context with a block command or a delay in progress. -/
def busyWith (s : State) (a : Active) : Context := { s.run with active := some a }

/-- The running context after one byte of a block command that had `len` bytes to go: done, or with the rest. -/
def afterOneByte (s : State) (len : Nat) (r : Word) (k : Block) (next : Nat) : Context :=
  if len = 1 then doneWith s r else busyWith s (.block k next (len - 1))

/-- The reserved bits of a format, the bits shown as 0 in spec/30_encoding.md R82 to R91. -/
def reservedBits : Format → Word
  | .n => 0xFFFFFF00#32
  | .b => 0xFFFFFE00#32
  | .s => 0xFFFFFC00#32
  | .t => 0#32
  | .d => 0xFFFF0000#32
  | .c7 => 0xFF000000#32
  | .c16 => 0#32
  | .mb => 0xFFFFFF00#32
  | .mb7 => 0xFF00FF00#32
  | .mb16 => 0x0000FF00#32

/-- The command that drives a line. -/
def lineCommand : BusLine → Bool → Instr
  | .atn, v => .setAtn v
  | .clock, v => .setClock v
  | .data, v => .setData v
  | .srq, v => .setSrq v

/-- The bit of a line in the snapshot (spec/00_scope.md R16). -/
def snapshotBit : BusLine → Nat
  | .atn => 0
  | .clock => 1
  | .data => 2
  | .srq => 3

/-- A command of the SPI Transport other than `spi_init` (spec/44_spi.md R191). -/
def needsSpiInit : Instr → Bool
  | .spiSelectDevice _ | .spiTxByte _ | .spiRxByte | .spiTxBlock _ _ | .spiRxBlock _ _ | .spiSetSpeed _ => true
  | .startTimeout _ | .hasTimedOut | .delayUs _ | .delayMs _ | .iecBusRead | .setAtn _ | .setClock _ | .setData _
  | .setSrq _ | .setAtnIrq _ | .setClockIrq _ | .crc7Update _ _ | .crc16Update _ _ | .crc7Block _ _ _
  | .crc16Block _ _ _ | .spiInit _ | .parallelInit => false

/-- A context of the stack after a delay above it has drawn: only a delay in progress changes, and it does not grow
(spec/40_timeout.md R122). -/
def DelayDrawn (c c' : Context) : Prop :=
  ((∀ left, c.active ≠ some (.delay left)) ∧ c' = c) ∨
    ∃ left left', c.active = some (.delay left) ∧ left' ≤ left ∧ c' = { c with active := some (.delay left') }

/-- A context after a microsecond: a delay in progress has one less left (spec/40_timeout.md R114). -/
def microsecondLater (c : Context) : Context :=
  match c.active with
  | some (.delay left) => { c with active := some (.delay (left - 1)) }
  | some (.block _ _ _) => c
  | none => c

/-- The machine under other polarity flags. -/
def withInv (inv : Lines) (s : State) : State := { s with cfg := { s.cfg with inv := inv } }

/-- An outcome with its next state changed. -/
def mapNext (f : State → State) : Result → Result
  | .next s => .next (f s)
  | .fault r => .fault r
  | .refused r => .refused r

/-- A move during which no other program runs and none of the given addresses is stored to. -/
def quiet (base len : Nat) : Event → Bool
  | .run | .time | .ext _ | .hsIn _ | .cpuIe _ => true
  | .store a _ => decide (a < base) || decide (base + len ≤ a)
  | .deliver _ => false

/-- What moves without a delivery leave of a state whose running context writes no block field: the fields none of them
writes, the counters as the microseconds among them leave them, pending bits and levels whose device does not move, and
every byte none of them stores to. -/
def LeftByMoves (moves : List Event) (s u : State) : Prop :=
  u.out = s.out ∧ u.spi = s.spi ∧ u.spiOut = s.spiOut ∧ u.inputs = s.inputs ∧
  u.irq.enAtn = s.irq.enAtn ∧ u.irq.enClock = s.irq.enClock ∧
  u.par = { s.par with hsPrev := u.par.hsPrev } ∧
  u.timeout = (timeSteps (moves.count .time) s).timeout ∧ u.stack = (timeSteps (moves.count .time) s).stack ∧
  ((∀ levels, .ext levels ∉ moves) →
    u.irq.pendAtn = s.irq.pendAtn ∧ u.irq.pendClock = s.irq.pendClock ∧ u.env.ext = s.env.ext) ∧
  ((∀ level, .hsIn level ∉ moves) → u.irq.pendPar = s.irq.pendPar ∧ u.par = s.par ∧ u.env.hsIn = s.env.hsIn) ∧
  ((∀ enable, .cpuIe enable ∉ moves) → u.env.cpuIe = s.env.cpuIe) ∧
  ∀ a, (∀ v, .store a v ∉ moves) → u.readByte a = s.readByte a

/-- The polynomial over GF(2) of a list of bits, the most significant first. -/
noncomputable def bitsPoly (bits : List Bool) : Polynomial (ZMod 2) :=
  bits.foldl (fun p b => p * Polynomial.X + Polynomial.C (if b then 1 else 0)) 0

/-- The bits of a value, the most significant first. -/
def msbFirst {n : Nat} (v : BitVec n) : List Bool := (List.range n).reverse.map v.getLsbD

/-- The bits of a message, each byte most significant bit first. -/
def messageBits (bytes : List Byte) : List Bool := bytes.flatMap msbFirst

/-- "123456789". -/
def checkMessage : List Byte := [0x31#8, 0x32#8, 0x33#8, 0x34#8, 0x35#8, 0x36#8, 0x37#8, 0x38#8, 0x39#8]

/-- A command that arms or disarms a line the configuration has not wired (spec/00_scope.md R12). -/
def armsUnwired (cfg : Config) (i : Instr) : Prop :=
  ((∃ v, i = .setAtnIrq v) ∧ cfg.wiredAtn = false) ∨ ((∃ v, i = .setClockIrq v) ∧ cfg.wiredClock = false)

/-- The lines of every program of the caller. -/
def allLines (p : Programs) : List ProgLine := p.main ++ p.edgeAtn ++ p.edgeClock ++ p.parHs

end Sys2Proof.Claims

open Sys2Proof Sys2Proof.Machine Sys2Proof.Claims

/-! ### Encoding and decoding (spec/30_encoding.md) -/

/-- R96, which the spec derives from R82 to R95: encoding is the inverse of decoding on admitted commands, in both
directions. -/
def Obligations.EncodeAndDecodeAgree : Prop :=
  (∀ i : Instr, (encode i).w0 = i.mnemonic.matchWord ||| i.operandBits) ∧
  (∀ (acc : Byte) (acc' : BitVec 16) (addr len : Word),
    (encode (.crc7Block acc addr len)).w1 = addr ∧ (encode (.crc7Block acc addr len)).w2 = len ∧
    (encode (.crc16Block acc' addr len)).w1 = addr ∧ (encode (.crc16Block acc' addr len)).w2 = len ∧
    (encode (.spiTxBlock addr len)).w1 = addr ∧ (encode (.spiTxBlock addr len)).w2 = len ∧
    (encode (.spiRxBlock addr len)).w1 = addr ∧ (encode (.spiRxBlock addr len)).w2 = len) ∧
  (∀ (cfg : Config) (i : Instr), i.wf cfg = true → decode cfg (encode i) = .ok i) ∧
  ∀ (cfg : Config) (w : Words) (i : Instr), decode cfg w = .ok i →
    i.wf cfg = true ∧ (encode i).w0 = w.w0 ∧ (i.mnemonic.format.isBlock = true → encode i = w)

/-- R97: a word is refused with `ILLEGAL_COMMAND` exactly when its opcode is in one of the unassigned ranges. -/
def Obligations.UnassignedOpcodesAreIllegal : Prop :=
  (∀ (s : State) (w : Words),
    (opField w.w0).toNat ≤ 0x0F ∨ (0x14 ≤ (opField w.w0).toNat ∧ (opField w.w0).toNat ≤ 0x1F) ∨
      (0x25 ≤ (opField w.w0).toNat ∧ (opField w.w0).toNat ≤ 0x2F) ∨
      (0x32 ≤ (opField w.w0).toNat ∧ (opField w.w0).toNat ≤ 0x3F) ∨
      (0x44 ≤ (opField w.w0).toNat ∧ (opField w.w0).toNat ≤ 0x4F) ∨
      (0x57 ≤ (opField w.w0).toNat ∧ (opField w.w0).toNat ≤ 0x5F) ∨ 0x61 ≤ (opField w.w0).toNat ↔
    decode s.cfg w = .error .illegalCommand) ∧
  (∀ (s : State) (w : Words), decode s.cfg w = .error .illegalCommand → issue w s = .refused (.illegalCommand w.w0)) ∧
  ∀ (s : State) (w1 w2 : Word), issue ⟨0#32, w1, w2⟩ s = .refused (.illegalCommand 0#32)

/-- R98: a word of an assigned opcode with a reserved bit set is refused, never executed. -/
def Obligations.ReservedBitsAreRefused : Prop :=
  ∀ (s : State) (w : Words) (m : Mnemonic), opField w.w0 = m.op → w.w0 &&& reservedBits m.format ≠ 0#32 →
    decode s.cfg w = .error .reservedField ∧ issue w s = .refused (.reservedField w.w0)

/-- R99: operand values the operation does not take, and commands the architecture lacks. -/
def Obligations.OperandsOutOfRangeAreRefused : Prop :=
  (∀ (s : State) (w : Words), opField w.w0 = 0x10#8 →
    (imm24Field w.w0 = 0#24 ∨ s.cfg.toMax < (imm24Field w.w0).toNat) → issue w s = .refused (.operandRange w)) ∧
  (∀ (s : State) (w : Words) (m : Mnemonic), m.format.isBlock = true → opField w.w0 = m.op →
    w.w0 &&& reservedBits m.format = 0#32 → s.cfg.arch = .narrow8 → w.w1.extractLsb' 16 16 ≠ 0#16 →
    issue w s = .refused (.operandRange w)) ∧
  ∀ (s : State) (w : Words), opField w.w0 = 0x12#8 ∨ opField w.w0 = 0x13#8 → s.cfg.arch = .narrow8 →
    issue w s = .refused (.notOnArch w.w0)

/-- Words of spec/95_test_vectors.md section 2.1 decode to the commands they stand for. -/
def Obligations.ListedWordsDecode : Prop :=
  decode (Config.full .wide32) ⟨0x00006410#32, 0#32, 0#32⟩ = .ok (.startTimeout 100#24) ∧
  decode (Config.full .wide32) ⟨0x00000121#32, 0#32, 0#32⟩ = .ok (.setAtn true) ∧
  decode (Config.full .wide32) ⟨0x00000131#32, 0#32, 0#32⟩ = .ok (.setClockIrq true) ∧
  decode (Config.full .wide32) ⟨0x00FF8040#32, 0#32, 0#32⟩ = .ok (.crc7Update 0xFF#8 0x80#8) ∧
  decode (Config.full .wide32) ⟨0x12340043#32, 0x100#32, 9#32⟩ = .ok (.crc16Block 0x1234#16 0x100#32 9#32) ∧
  decode (Config.full .wide32) ⟨0x00000351#32, 0#32, 0#32⟩ = .ok (.spiSelectDevice .all) ∧
  decode (Config.full .wide32) ⟨0x00000060#32, 0#32, 0#32⟩ = .ok .parallelInit ∧
  decode (Config.full .narrow8) ⟨0x00010110#32, 0#32, 0#32⟩ = .error .operandRange ∧
  decode (Config.full .narrow8) ⟨0x00000154#32, 0x00010000#32, 1#32⟩ = .error .reservedField

/-! ### The machine's step and the caller harness (spec/30_encoding.md section 7, spec/60_exceptions.md) -/

/-- R70: a step is one move of one agent: the script's next one, with that move consumed, and where the script is empty
the default schedule's, time in its turn, else a source that may be delivered, else the caller, with the turn handed
over (the schedule is the model's, log 12, log 13). A context that stands at a command runs it, and so does the step that
gives the context its turn. No step under a refused launch (R11, R12). A command placed with `withFetchWord` is the one
the next step runs (log 10). -/
def Obligations.StepRunsTheDecodedCommand : Prop :=
  (∀ (s : State) (r : Refusal), launchRefusal s.cfg s.progs = some r → step s = .refused r) ∧
  (∀ (s : State) (e : Event) (rest : List Event), launchRefusal s.cfg s.progs = none → s.sched.script = e :: rest →
    step s = move e { s with sched := { s.sched with script := rest } }) ∧
  (∀ s : State, launchRefusal s.cfg s.progs = none → s.sched.script = [] →
    (s.sched.turn = .time → step s = move .time { s with sched := { s.sched with turn := .caller } }) ∧
    (s.sched.turn = .caller → (∀ src, s.mayDeliver src = false) →
      step s = move .run { s with sched := { s.sched with turn := .time } }) ∧
    (s.sched.turn = .caller → (∃ src, s.mayDeliver src = true) → ∃ src draws u, s.mayDeliver src = true ∧
      move (.deliver src) { s with sched := { s.sched with turn := .time } } = .next u ∧
      step s = .next { u with inputs := { u.inputs with draws := draws } })) ∧
  (∀ s : State, move .run s = contextStep s ∧
    ∀ w, s.run.active = none → s.line = some (.cmd w) → contextStep s = issue w s ∧
      ∀ i, decode s.cfg w = .ok i → contextStep s = exec i s) ∧
  (∀ (s : State) (w : Words) (i : Instr) (rest : List Event), launchRefusal s.cfg s.progs = none →
    s.run.active = none → s.line = some (.cmd w) → decode s.cfg w = .ok i → s.sched.script = .run :: rest →
    step s = exec i { s with sched := { s.sched with script := rest } }) ∧
  (∀ (s : State) (w : Words) (i : Instr), launchRefusal s.cfg s.progs = none →
    s.run.active = none → s.line = some (.cmd w) → decode s.cfg w = .ok i → s.sched.script = [] →
    s.sched.turn = .caller → (∀ src, s.mayDeliver src = false) →
    step s = exec i { s with sched := { s.sched with turn := .time } }) ∧
  ∀ (s : State) (nbits n : Nat) (i : Instr),
    launchRefusal s.cfg (s.withFetchWord nbits n).progs = none → decode s.cfg (wordsOfNat nbits n) = .ok i →
    step (s.withFetchWord nbits n) =
      exec i { s with progs := (s.withFetchWord nbits n).progs, run := { s.run with active := none } }

/-- R104: harness lines move the context and change nothing else. A target is a line index (the model's, log 11). R253:
a run is finished when its main program has ended, no handler runs and no command is in progress, never when its launch
is refused; a finished main program stays where it ended. That it has ended as soon as it stands at `halt` is the model's
choice (log 21). -/
def Obligations.HarnessLinesMoveTheContext : Prop :=
  (∀ (s : State) (target : Nat), s.run.active = none →
    (s.line = some .label → contextStep s = .next { s with run := { s.run with pc := s.run.pc + 1 } }) ∧
    (s.line = some (.b target) → contextStep s = .next { s with run := { s.run with pc := target } }) ∧
    (s.line = some (.bz target) → contextStep s =
      .next { s with run := { s.run with pc := if s.run.res = 0#32 then target else s.run.pc + 1 } }) ∧
    (s.line = some (.bnz target) → contextStep s =
      .next { s with run := { s.run with pc := if s.run.res ≠ 0#32 then target else s.run.pc + 1 } })) ∧
  ∀ s : State,
    (s.finished = true ↔ launchRefusal s.cfg s.progs = none ∧ s.run.active = none ∧
      (s.line = none ∨ s.line = some .halt) ∧ s.stack = []) ∧
    (s.finished = true → contextStep s = .next s)

/-- R105: a line whose accumulator operand is `res` issues its command with the low bits of `res` there and every other
bit of its words as written. -/
def Obligations.ResStandsForTheLastResult : Prop :=
  ∀ (s : State) (w : Words), s.run.active = none → s.line = some (.cmdRes w) →
    (opField w.w0 = 0x40#8 ∨ opField w.w0 = 0x42#8 → ∃ w0, contextStep s = issue ⟨w0, w.w1, w.w2⟩ s ∧
      acc8Field w0 = s.run.res.extractLsb' 0 8 ∧ ∀ k, k < 16 ∨ 24 ≤ k → w0.getLsbD k = w.w0.getLsbD k) ∧
    (opField w.w0 = 0x41#8 ∨ opField w.w0 = 0x43#8 → ∃ w0, contextStep s = issue ⟨w0, w.w1, w.w2⟩ s ∧
      acc16Field w0 = s.run.res.extractLsb' 0 16 ∧ ∀ k, k < 16 → w0.getLsbD k = w.w0.getLsbD k)

/-- R11: no step under an ill-formed configuration. -/
def Obligations.IllFormedConfigurationsAreRefused : Prop :=
  ∀ s : State, s.cfg.tickW ≠ s.cfg.arch.tickW ∨ s.cfg.addrW ≠ s.cfg.arch.addrW ∨ s.cfg.toMax ≠ s.cfg.arch.toMax ∨
      s.cfg.spiDivSlow ≤ s.cfg.spiDivFast ∨ s.cfg.spiDivFast = 0 →
    step s = .refused (.configIllFormed s.cfg)

/-- R12: a program with a command the variant does not provide for has no step at all: every step is refused, and the
refusal names a line of the program that holds such a command. That the programs of the handlers are part of the program
and that the check is made at every step is the model's reading (log 20; a line with the operand `res`, log 30). -/
def Obligations.UnprovidedProgramsHaveNoStep : Prop :=
  ∀ (s : State) (w : Words) (i : Instr), s.cfg.wf = true → decode s.cfg w = .ok i →
    .cmd w ∈ allLines s.progs ∨ .cmdRes w ∈ allLines s.progs →
    armsUnwired s.cfg i ∨ (i = .parallelInit ∧ s.cfg.hasParallel = false) →
    ∃ owner n w' i', ((programOf s.progs owner)[n]? = some (.cmd w') ∨
        (programOf s.progs owner)[n]? = some (.cmdRes w')) ∧ decode s.cfg w' = .ok i' ∧
      ((armsUnwired s.cfg i' ∧ step s = .refused (.configUnwiredIrq owner n)) ∨
        (i' = .parallelInit ∧ s.cfg.hasParallel = false ∧ step s = .refused (.configNoParallel owner n)))

/-! ### Timeout Service (spec/40_timeout.md) -/

/-- R110: the delta of two tick values is the wraparound-safe signed difference. -/
def Obligations.TickDeltaIsTheSignedDifference : Prop :=
  ∀ (w : Nat) (a b : BitVec w), 0 < w →
    tickDelta a b = (if (a - b).toNat < 2 ^ (w - 1) then ((a - b).toNat : Int) else (a - b).toNat - 2 ^ w) ∧
    -(2 ^ (w - 1) : Int) ≤ tickDelta a b ∧ tickDelta a b ≤ 2 ^ (w - 1) - 1 ∧
    (tickAfter a b = true ↔ 0 < tickDelta a b) ∧
    (∀ k : Nat, k < 2 ^ (w - 1) → tickDelta (b + BitVec.ofNat w k) b = k) ∧
    ∀ k : Nat, tickDelta (b + BitVec.ofNat w k) b = (k : Int).bmod (2 ^ w)

/-- R114, its pseudocode: a microsecond advances `NOW`, the deadline and every delay in progress, and touches nothing
else. -/
def Obligations.MicrosecondAdvancesTheCounters : Prop :=
  ∀ s : State, move .time s = .next { s with
    timeout :=
      { toRem := s.timeout.toRem - 1
        toExp := if s.timeout.toRem = 1 then true else s.timeout.toExp
        now := (s.timeout.now + 1) % 2 ^ s.cfg.tickW }
    run := microsecondLater s.run
    stack := s.stack.map microsecondLater }

/-- R115: `start_timeout` arms the deadline and clears the level, and changes nothing else but the context. R115 refuses
an operand out of range at decode; that its meaning refuses it too is the model's choice (log 19). -/
def Obligations.StartTimeoutArmsTheDeadline : Prop :=
  ∀ (s : State) (usecs : BitVec 24),
    (1 ≤ usecs.toNat → usecs.toNat ≤ s.cfg.toMax → exec (.startTimeout usecs) s = .next { s with
      timeout := { s.timeout with toRem := s.cfg.ticks usecs.toNat, toExp := false }
      run := doneWith s 0#32 }) ∧
    (usecs.toNat = 0 ∨ s.cfg.toMax < usecs.toNat →
      decode s.cfg (encode (.startTimeout usecs)) = .error .operandRange ∧
      exec (.startTimeout usecs) s = .refused (.operandRange (encode (.startTimeout usecs)))) ∧
    encode (.startTimeout usecs) = ⟨usecs.setWidth 32 <<< 8 ||| 0x10#32, 0#32, 0#32⟩

/-- R116: `has_timed_out` returns the expired level and writes no state. -/
def Obligations.HasTimedOutReturnsTheLevel : Prop :=
  encode .hasTimedOut = ⟨0x00000011#32, 0#32, 0#32⟩ ∧
  ∀ s : State, exec .hasTimedOut s =
    .next { s with run := doneWith s (if s.timeout.toExp = true then 1#32 else 0#32) }

/-- R117 and R118: on `WIDE32` a delay of `n` µs or of `n` ms starts in the issuing context, or completes at once for
0; the delays of the contexts below are drawn no larger than they were (log 16); nothing else changes. On `NARROW8` the
spec refuses both at decode; that their meanings refuse too is the model's choice (log 19). -/
def Obligations.DelaysStartInTheIssuingContext : Prop :=
  ∀ (s : State) (n : BitVec 24),
    (s.cfg.arch = .wide32 → ∃ stack draws, List.Forall₂ DelayDrawn s.stack stack ∧
      exec (.delayUs n) s = .next { s with
        run := if n = 0#24 then doneWith s 0#32 else busyWith s (.delay n.toNat)
        stack := stack
        inputs := { s.inputs with draws := draws } }) ∧
    (s.cfg.arch = .wide32 → ∃ stack draws, List.Forall₂ DelayDrawn s.stack stack ∧
      exec (.delayMs n) s = .next { s with
        run := if n = 0#24 then doneWith s 0#32 else busyWith s (.delay (1000 * n.toNat))
        stack := stack
        inputs := { s.inputs with draws := draws } }) ∧
    (s.cfg.arch = .narrow8 → exec (.delayUs n) s = .refused (.notOnArch (encode (.delayUs n)).w0) ∧
      exec (.delayMs n) s = .refused (.notOnArch (encode (.delayMs n)).w0)) ∧
    encode (.delayUs n) = ⟨n.setWidth 32 <<< 8 ||| 0x12#32, 0#32, 0#32⟩ ∧
    encode (.delayMs n) = ⟨n.setWidth 32 <<< 8 ||| 0x13#32, 0#32, 0#32⟩

/-- R117: a context in a delay of `n` stays there through any moves with fewer than `n` microseconds among them, and
completes at its first step after `n` of them. -/
def Obligations.DelayLastsItsMicroseconds : Prop :=
  ∀ (s : State) (n : Nat) (moves : List Event), s.run.active = some (.delay n) →
    (∀ e ∈ moves, ∀ src, e ≠ .deliver src) →
    (moves.count .time < n → ∃ t, runMoves moves s = .next t ∧
      t.run = busyWith s (.delay (n - moves.count .time))) ∧
    (n ≤ moves.count .time → .run ∉ moves → ∃ t u, runMoves moves s = .next t ∧ contextStep t = .next u ∧
      u.run = doneWith s 0#32 ∧ u.timeout = t.timeout ∧ u.stack = t.stack ∧ u.mem = t.mem)

/-- R120, which the spec derives from R114 and R115: re-arming before expiry resets the deadline: `has_timed_out`
gives 0 before `N` microseconds of the second arming have passed, and 1 from then on. -/
def Obligations.RearmingResetsTheDeadline : Prop :=
  ∀ (s : State) (n : BitVec 24) (j k : Nat), s.cfg.toTicks = [] → 1 ≤ n.toNat → n.toNat ≤ s.cfg.toMax →
    j < n.toNat →
    ∃ t0 t1 u, exec (.startTimeout n) s = .next t0 ∧ exec (.startTimeout n) (timeSteps j t0) = .next t1 ∧
      exec .hasTimedOut (timeSteps k t1) = .next u ∧ u.run.res = if n.toNat ≤ k then 1#32 else 0#32

/-! ### Bus Line Driver/Sampler (spec/41_bus_lines.md) -/

/-- R131 and R132: `iec_bus_read` samples the four wires in one step and writes no state. -/
def Obligations.BusReadSamplesTheWires : Prop :=
  encode .iecBusRead = ⟨0x00000020#32, 0#32, 0#32⟩ ∧
  ∀ s : State, ∃ r : Word, exec .iecBusRead s = .next { s with run := doneWith s r } ∧
    r.getLsbD 0 = (s.out.atn && s.env.ext.atn) ∧ r.getLsbD 1 = (s.out.clock && s.env.ext.clock) ∧
    r.getLsbD 2 = (s.out.data && s.env.ext.data) ∧ r.getLsbD 3 = (s.out.srq && s.env.ext.srq) ∧
    ∀ k, 4 ≤ k → r.getLsbD k = false

/-- R133 and R134: `set_atn` and `set_clock` write their line, and make its armed source pending exactly when the wire
changes. -/
def Obligations.SetAtnAndSetClockDriveTheirLine : Prop :=
  ∀ (s : State) (v : Bool),
    exec (.setAtn v) s = .next { s with
      out := { s.out with atn := v }
      irq := { s.irq with
        pendAtn := s.irq.pendAtn ||
          (s.irq.enAtn && decide ((v && s.env.ext.atn) ≠ (s.out.atn && s.env.ext.atn))) }
      run := doneWith s 0#32 } ∧
    exec (.setClock v) s = .next { s with
      out := { s.out with clock := v }
      irq := { s.irq with
        pendClock := s.irq.pendClock ||
          (s.irq.enClock && decide ((v && s.env.ext.clock) ≠ (s.out.clock && s.env.ext.clock))) }
      run := doneWith s 0#32 } ∧
    encode (.setAtn v) = ⟨if v = true then 0x00000121#32 else 0x00000021#32, 0#32, 0#32⟩ ∧
    encode (.setClock v) = ⟨if v = true then 0x00000122#32 else 0x00000022#32, 0#32, 0#32⟩

/-- R135 and R136: `set_data` and `set_srq` write their line and raise no edge. -/
def Obligations.SetDataAndSetSrqDriveTheirLine : Prop :=
  ∀ (s : State) (v : Bool),
    exec (.setData v) s = .next { s with out := { s.out with data := v }, run := doneWith s 0#32 } ∧
    exec (.setSrq v) s = .next { s with out := { s.out with srq := v }, run := doneWith s 0#32 } ∧
    encode (.setData v) = ⟨if v = true then 0x00000123#32 else 0x00000023#32, 0#32, 0#32⟩ ∧
    encode (.setSrq v) = ⟨if v = true then 0x00000124#32 else 0x00000024#32, 0#32, 0#32⟩

/-- R138: after a write of a line, whatever the environment then does, a read gives what was written where no other
device pulls the line. -/
def Obligations.ReadAfterWriteSeesTheLine : Prop :=
  ∀ (s : State) (l : BusLine) (v : Bool) (moves : List Event), .run ∉ moves →
    ∃ t u r, exec (lineCommand l v) s = .next t ∧ runMoves moves t = .next u ∧
      exec .iecBusRead u = .next { u with run := doneWith u r } ∧
      r.getLsbD (snapshotBit l) = (v && lineBit u.env.ext l)

/-- R137, which the spec derives from R27 and R132: no step depends on the polarity flags. -/
def Obligations.StepIgnoresPolarity : Prop :=
  ∀ (s : State) (inv : Lines), launchRefusal s.cfg s.progs = none →
    step (withInv inv s) = mapNext (withInv inv) (step s)

/-! ### Edge-Capture/Interrupt Controller (spec/42_edge_irq.md) -/

/-- R130, R151 and R152: new levels of the other devices make an armed source pending exactly when its wire changes,
and change nothing else. -/
def Obligations.BusLevelsMakeEdges : Prop :=
  ∀ (s : State) (levels : Lines), move (.ext levels) s = .next { s with
    env := { s.env with ext := levels }
    irq := { s.irq with
      pendAtn := s.irq.pendAtn ||
        (s.irq.enAtn && decide ((s.out.atn && levels.atn) ≠ (s.out.atn && s.env.ext.atn)))
      pendClock := s.irq.pendClock ||
        (s.irq.enClock && decide ((s.out.clock && levels.clock) ≠ (s.out.clock && s.env.ext.clock))) } }

/-- R154 and R155: arming sets the enable and no pending bit; disarming clears the enable, and a pending bit that was
set is kept or dropped (a draw of the spec, log 15); nothing else changes. A program that arms an unwired line is
refused as a whole; that the meanings refuse there too is the model's choice (log 19). -/
def Obligations.ArmingAndDisarmingSources : Prop :=
  (∀ s : State, s.cfg.wiredAtn = true →
    exec (.setAtnIrq true) s = .next { s with irq := { s.irq with enAtn := true }, run := doneWith s 0#32 } ∧
    ∃ kept draws, (s.irq.pendAtn = false → kept = false) ∧ exec (.setAtnIrq false) s = .next { s with
      irq := { s.irq with enAtn := false, pendAtn := kept }
      inputs := { s.inputs with draws := draws }
      run := doneWith s 0#32 }) ∧
  (∀ s : State, s.cfg.wiredClock = true →
    exec (.setClockIrq true) s = .next { s with irq := { s.irq with enClock := true }, run := doneWith s 0#32 } ∧
    ∃ kept draws, (s.irq.pendClock = false → kept = false) ∧ exec (.setClockIrq false) s = .next { s with
      irq := { s.irq with enClock := false, pendClock := kept }
      inputs := { s.inputs with draws := draws }
      run := doneWith s 0#32 }) ∧
  (∀ (s : State) (v : Bool),
    (s.cfg.wiredAtn = false → exec (.setAtnIrq v) s = .refused (.configUnwiredIrq s.run.owner s.run.pc)) ∧
    (s.cfg.wiredClock = false → exec (.setClockIrq v) s = .refused (.configUnwiredIrq s.run.owner s.run.pc))) ∧
  ∀ v : Bool, encode (.setAtnIrq v) = ⟨if v = true then 0x00000130#32 else 0x00000030#32, 0#32, 0#32⟩ ∧
    encode (.setClockIrq v) = ⟨if v = true then 0x00000131#32 else 0x00000031#32, 0#32, 0#32⟩

/-- R160, which the spec derives from R154, R155 and R132: arming a source and disarming it leaves what a read
returns. -/
def Obligations.ArmingLeavesTheRead : Prop :=
  ∀ s : State,
    (s.cfg.wiredAtn = true → ∃ t u r, exec (.setAtnIrq true) s = .next t ∧ exec (.setAtnIrq false) t = .next u ∧
      u.out = s.out ∧ (∀ l, u.wire l = s.wire l) ∧ exec .iecBusRead s = .next { s with run := doneWith s r } ∧
      exec .iecBusRead u = .next { u with run := doneWith u r }) ∧
    (s.cfg.wiredClock = true → ∃ t u r, exec (.setClockIrq true) s = .next t ∧ exec (.setClockIrq false) t = .next u ∧
      u.out = s.out ∧ (∀ l, u.wire l = s.wire l) ∧ exec .iecBusRead s = .next { s with run := doneWith s r } ∧
      exec .iecBusRead u = .next { u with run := doneWith u r })

/-! ### CRC Engine (spec/43_crc.md) -/

/-- R174: `crc7_update` returns the update of its operands, bit 7 of the accumulator ignored and bit 7 of the result 0,
and writes no state. -/
def Obligations.Crc7UpdateReturnsTheUpdate : Prop :=
  ∀ (s : State) (acc data : Byte),
    exec (.crc7Update acc data) s = .next { s with run := doneWith s ((crc7Upd acc data).setWidth 32) } ∧
    (crc7Upd acc data).toNat ≤ 0x7F ∧ crc7Upd (acc &&& 0x7F#8) data = crc7Upd acc data ∧
    (∀ w : Words, opField w.w0 = 0x40#8 → w.w0.extractLsb' 24 8 ≠ 0#8 → issue w s = .refused (.reservedField w.w0)) ∧
    encode (.crc7Update acc data) = ⟨acc.setWidth 32 <<< 16 ||| data.setWidth 32 <<< 8 ||| 0x40#32, 0#32, 0#32⟩

/-- R175: `crc16_update` returns the update of its operands and writes no state. -/
def Obligations.Crc16UpdateReturnsTheUpdate : Prop :=
  ∀ (s : State) (acc : BitVec 16) (data : Byte),
    exec (.crc16Update acc data) s = .next { s with run := doneWith s ((crc16Upd acc data).setWidth 32) } ∧
    encode (.crc16Update acc data) = ⟨acc.setWidth 32 <<< 16 ||| data.setWidth 32 <<< 8 ||| 0x41#32, 0#32, 0#32⟩

/-- R172: both algorithms are the remainder of a division of polynomials over GF(2): the accumulator shifted by the
length of the message, plus the message followed by as many zeros as the generator's degree, modulo the generator. -/
def Obligations.CrcIsPolynomialDivision : Prop :=
  (∀ (acc : BitVec 16) (bytes : List Byte),
    bitsPoly (msbFirst (crc16Fold acc bytes)) =
      (bitsPoly (msbFirst acc) * Polynomial.X ^ (8 * bytes.length) + bitsPoly (messageBits bytes) * Polynomial.X ^ 16)
        %ₘ (Polynomial.X ^ 16 + Polynomial.X ^ 12 + Polynomial.X ^ 5 + 1)) ∧
  ∀ (acc : Byte) (bytes : List Byte),
    bitsPoly (msbFirst ((crc7Fold acc bytes).setWidth 7)) =
      (bitsPoly (msbFirst (acc.setWidth 7)) * Polynomial.X ^ (8 * bytes.length) +
          bitsPoly (messageBits bytes) * Polynomial.X ^ 7)
        %ₘ (Polynomial.X ^ 7 + Polynomial.X ^ 3 + 1)

/-- R180, which the spec derives from R170 and R171: a message followed by its CRC has the residue the rule gives. -/
def Obligations.CrcResidues : Prop :=
  (∀ c : BitVec 16, crc16Fold c [c.extractLsb' 8 8, c.extractLsb' 0 8] = 0#16) ∧
  (∀ m : List Byte, crc16Fold 0#16 (m ++ [(crc16Fold 0#16 m).extractLsb' 8 8, (crc16Fold 0#16 m).extractLsb' 0 8]) =
    0#16) ∧
  (∀ m : List Byte, crc7Fold 0#8 (m ++ [crc7Fold 0#8 m <<< 1]) = 0#8) ∧
  ∀ m : List Byte, crc7Fold 0#8 (m ++ [crc7Fold 0#8 m <<< 1 ||| 1#8]) = 0x09#8

/-- R181: the known-vector checks, values the spec computes from its own rules. -/
def Obligations.CrcCheckValues : Prop :=
  crc16Fold 0#16 checkMessage = 0x31C3#16 ∧ crc7Fold 0#8 checkMessage = 0x75#8

/-- R176, the first step: nothing at length 0, a fault on a wrap, else the byte at `addr`; where that address is not
admitted the command has started and its context stands at it without a step. No block state and no byte of memory
changes. The step of the checks and the name of the stuck outcome are the model's (log 17, log 18). -/
def Obligations.Crc7BlockTakesItsFirstByte : Prop :=
  ∀ (s : State) (acc : Byte) (addr len : Word), (Instr.crc7Block acc addr len).wf s.cfg = true →
    (len = 0#32 → exec (.crc7Block acc addr len) s = .next { s with run := doneWith s (acc.setWidth 32) }) ∧
    (len ≠ 0#32 → addr.toNat + len.toNat ≤ 2 ^ s.cfg.addrW → s.admits addr.toNat = true →
      exec (.crc7Block acc addr len) s = .next { s with
        run := afterOneByte s len.toNat ((crc7Upd acc (s.readByte addr.toNat)).setWidth 32)
          (.crc7 (crc7Upd acc (s.readByte addr.toNat))) (addr.toNat + 1) }) ∧
    (len ≠ 0#32 → 2 ^ s.cfg.addrW < addr.toNat + len.toNat →
      exec (.crc7Block acc addr len) s = .fault (.addrWrap (encode (.crc7Block acc addr len)).w0 addr len)) ∧
    (len ≠ 0#32 → addr.toNat + len.toNat ≤ 2 ^ s.cfg.addrW → s.admits addr.toNat = false →
      ∃ t, t = { s with run := busyWith s (.block (.crc7 acc) addr.toNat len.toNat) } ∧
        exec (.crc7Block acc addr len) s = .next t ∧ contextStep t = .fault (.stuckUnadmitted addr.toNat))

/-- R177, the first step, as for CRC-7 (log 17, log 18). -/
def Obligations.Crc16BlockTakesItsFirstByte : Prop :=
  ∀ (s : State) (acc : BitVec 16) (addr len : Word), (Instr.crc16Block acc addr len).wf s.cfg = true →
    (len = 0#32 → exec (.crc16Block acc addr len) s = .next { s with run := doneWith s (acc.setWidth 32) }) ∧
    (len ≠ 0#32 → addr.toNat + len.toNat ≤ 2 ^ s.cfg.addrW → s.admits addr.toNat = true →
      exec (.crc16Block acc addr len) s = .next { s with
        run := afterOneByte s len.toNat ((crc16Upd acc (s.readByte addr.toNat)).setWidth 32)
          (.crc16 (crc16Upd acc (s.readByte addr.toNat))) (addr.toNat + 1) }) ∧
    (len ≠ 0#32 → 2 ^ s.cfg.addrW < addr.toNat + len.toNat →
      exec (.crc16Block acc addr len) s = .fault (.addrWrap (encode (.crc16Block acc addr len)).w0 addr len)) ∧
    (len ≠ 0#32 → addr.toNat + len.toNat ≤ 2 ^ s.cfg.addrW → s.admits addr.toNat = false →
      ∃ t, t = { s with run := busyWith s (.block (.crc16 acc) addr.toNat len.toNat) } ∧
        exec (.crc16Block acc addr len) s = .next t ∧ contextStep t = .fault (.stuckUnadmitted addr.toNat))

/-- R178, with R172: over admitted, non-wrapping memory that is not written during the command, a CRC block command whose
bytes are interleaved with any moves but a delivery ends with the fold of the update over the bytes; it writes no block
state and no memory, so only what the moves do shows. -/
def Obligations.CrcBlocksFoldUnderInterleaving : Prop :=
  ∀ (s : State) (addr len : Word) (moves : List Event), len ≠ 0#32 → addr.toNat + len.toNat ≤ 2 ^ s.cfg.addrW →
    (s.cfg.arch = .narrow8 → addr.toNat < 2 ^ 16) →
    (∀ k, k < len.toNat → s.admits (addr.toNat + k) = true) →
    (∀ e ∈ moves, quiet addr.toNat len.toNat e = true) → moves.count .run + 1 = len.toNat →
    (∀ acc : Byte, ∃ t u, exec (.crc7Block acc addr len) s = .next t ∧ runMoves moves t = .next u ∧
      u.run = doneWith s ((crc7Fold acc (s.bytesAt addr.toNat len.toNat)).setWidth 32) ∧ LeftByMoves moves s u) ∧
    ∀ acc : BitVec 16, ∃ t u, exec (.crc16Block acc addr len) s = .next t ∧ runMoves moves t = .next u ∧
      u.run = doneWith s ((crc16Fold acc (s.bytesAt addr.toNat len.toNat)).setWidth 32) ∧ LeftByMoves moves s u

/-! ### SPI Transport (spec/44_spi.md) -/

/-- R191: every SPI command other than `spi_init` faults before `spi_init`, before any other effect. -/
def Obligations.SpiCommandsNeedInit : Prop :=
  ∀ (s : State) (i : Instr), i.wf s.cfg = true → needsSpiInit i = true → s.spi.spiOn = false →
    exec i s = .fault (.spiUninit (encode i).w0)

/-- R192: every SPI command faults while an SPI block command is between bytes, after the check of R191. -/
def Obligations.SpiCommandsNeedASingleCaller : Prop :=
  ∀ (s : State) (i : Instr), i.wf s.cfg = true → s.spi.spiBusy = true →
    (∃ p, i = .spiInit p) ∨ (needsSpiInit i = true ∧ s.spi.spiOn = true) →
    exec i s = .fault (.spiReentry (encode i).w0 s.run.owner)

/-- R199: `spi_init` turns the controller on, sets the preset and deselects, exchanges no byte, and changes nothing
else but the record of the chip-select lines (log 23). -/
def Obligations.SpiInitConfiguresAndDeselects : Prop :=
  ∀ (s : State) (p : Speed),
    (s.spi.spiBusy = false → ∃ out, exec (.spiInit p) s = .next { s with
        spi := { spiOn := true, spiSpeed := p, spiSel := .none, spiBusy := false }
        spiOut := out
        run := doneWith s 0#32 } ∧ State.spiEvents { s with spiOut := out } = s.spiEvents) ∧
    (s.spi.spiBusy = true → exec (.spiInit p) s = .fault (.spiReentry (encode (.spiInit p)).w0 s.run.owner)) ∧
    encode (.spiInit .slow) = ⟨0x00000050#32, 0#32, 0#32⟩ ∧ encode (.spiInit .fast) = ⟨0x00000150#32, 0#32, 0#32⟩

/-- R200: `spi_select_device` writes the selector, and changes nothing else but the record of the chip-select lines
(log 23). -/
def Obligations.SpiSelectDeviceWritesTheSelector : Prop :=
  (∀ (s : State) (dev : Selector),
    (s.spi.spiOn = true → s.spi.spiBusy = false → ∃ out, exec (.spiSelectDevice dev) s = .next { s with
        spi := { s.spi with spiSel := dev }
        spiOut := out
        run := doneWith s 0#32 } ∧ State.spiEvents { s with spiOut := out } = s.spiEvents) ∧
    (s.spi.spiOn = false → exec (.spiSelectDevice dev) s = .fault (.spiUninit (encode (.spiSelectDevice dev)).w0)) ∧
    (s.spi.spiOn = true → s.spi.spiBusy = true →
      exec (.spiSelectDevice dev) s = .fault (.spiReentry (encode (.spiSelectDevice dev)).w0 s.run.owner))) ∧
  encode (.spiSelectDevice .none) = ⟨0x00000051#32, 0#32, 0#32⟩ ∧
  encode (.spiSelectDevice .card0) = ⟨0x00000151#32, 0#32, 0#32⟩ ∧
  encode (.spiSelectDevice .card1) = ⟨0x00000251#32, 0#32, 0#32⟩ ∧
  encode (.spiSelectDevice .all) = ⟨0x00000351#32, 0#32, 0#32⟩

/-- R206, which the spec derives from R200 and R34: selecting `CARD1` leaves only `CS[1]` asserted whatever was
selected, `NONE` leaves neither; both are asserted under `ALL` alone. -/
def Obligations.SelectionIsExclusive : Prop :=
  (∀ s : State, s.spi.spiOn = true → s.spi.spiBusy = false →
    (∃ t, exec (.spiSelectDevice .card0) s = .next t ∧ t.cs0 = true ∧ t.cs1 = false) ∧
    (∃ t, exec (.spiSelectDevice .card1) s = .next t ∧ t.cs0 = false ∧ t.cs1 = true) ∧
    (∃ t, exec (.spiSelectDevice .none) s = .next t ∧ t.cs0 = false ∧ t.cs1 = false) ∧
    ∃ t, exec (.spiSelectDevice .all) s = .next t ∧ t.cs0 = true ∧ t.cs1 = true) ∧
  ∀ s : State, s.cs0 = true ∧ s.cs1 = true ↔ s.spi.spiSel = .all

/-- R194: a change of the chip-select lines is recorded in the SPI output, in order, and nothing else is, by the two
commands that change the selection (R199, R200; how the record is kept is the model's, log 23). -/
def Obligations.SelectionChangesAreRecorded : Prop :=
  ∀ s : State, s.spi.spiBusy = false →
    (∀ dev : Selector, s.spi.spiOn = true → ∃ t, exec (.spiSelectDevice dev) s = .next t ∧
      t.spiOut = if t.cs0 = s.cs0 ∧ t.cs1 = s.cs1 then s.spiOut else s.spiOut ++ [.select t.cs0 t.cs1]) ∧
    ∀ p : Speed, ∃ t, exec (.spiInit p) s = .next t ∧ t.cs0 = false ∧ t.cs1 = false ∧
      t.spiOut = if s.cs0 = false ∧ s.cs1 = false then s.spiOut else s.spiOut ++ [.select false false]

/-- R201 and R202: a byte transfer records one exchange under the present selection and preset, with the operand or the
fill byte 0xFF, and returns the byte received, which the environment has ready or is a free value (R193; the queue of
answers is the model's, log 14); no block state and no memory changes. -/
def Obligations.SpiByteTransfersExchangeOneByte : Prop :=
  ∀ s : State, s.spi.spiOn = true → s.spi.spiBusy = false →
    (∀ data : Byte, exec (.spiTxByte data) s = .next { s with
      spiOut := s.spiOut ++ [.exchange ⟨s.cs0, s.cs1, s.spi.spiSpeed, data⟩]
      inputs := s.inputs.afterByte
      run := doneWith s (s.received.setWidth 32) }) ∧
    exec .spiRxByte s = .next { s with
      spiOut := s.spiOut ++ [.exchange ⟨s.cs0, s.cs1, s.spi.spiSpeed, 0xFF#8⟩]
      inputs := s.inputs.afterByte
      run := doneWith s (s.received.setWidth 32) }

/-- The answers the environment has ready are received in their order (the model's input queue, log 14). -/
def Obligations.SpiAnswersArriveInOrder : Prop :=
  ∀ (s : State) (data r : Byte) (rest : List Byte), s.spi.spiOn = true → s.spi.spiBusy = false →
    s.inputs.spiIn = r :: rest →
    (∃ t, exec (.spiTxByte data) s = .next t ∧ t.run.res = r.setWidth 32 ∧ t.inputs.spiIn = rest) ∧
    ∃ t, exec .spiRxByte s = .next t ∧ t.run.res = r.setWidth 32 ∧ t.inputs.spiIn = rest

/-- R203, the first step: nothing at length 0, a fault on a wrap, else the exchange of the byte at `addr`, with
`SPI_BUSY` 1 unless it was the last; where `addr` is not admitted the context stands at it without a step, with
`SPI_BUSY` 1 and nothing exchanged; no byte of memory changes (log 17, log 18; the queue of answers log 14). -/
def Obligations.SpiTxBlockSendsItsFirstByte : Prop :=
  ∀ (s : State) (addr len : Word), (Instr.spiTxBlock addr len).wf s.cfg = true → s.spi.spiOn = true →
    s.spi.spiBusy = false →
    (len = 0#32 → exec (.spiTxBlock addr len) s = .next { s with run := doneWith s 0#32 }) ∧
    (len ≠ 0#32 → addr.toNat + len.toNat ≤ 2 ^ s.cfg.addrW → s.admits addr.toNat = true →
      exec (.spiTxBlock addr len) s = .next { s with
        spi := { s.spi with spiBusy := decide (len ≠ 1#32) }
        spiOut := s.spiOut ++ [.exchange ⟨s.cs0, s.cs1, s.spi.spiSpeed, s.readByte addr.toNat⟩]
        inputs := s.inputs.afterByte
        run := afterOneByte s len.toNat 0#32 .spiTx (addr.toNat + 1) }) ∧
    (len ≠ 0#32 → 2 ^ s.cfg.addrW < addr.toNat + len.toNat →
      exec (.spiTxBlock addr len) s = .fault (.addrWrap (encode (.spiTxBlock addr len)).w0 addr len)) ∧
    (len ≠ 0#32 → addr.toNat + len.toNat ≤ 2 ^ s.cfg.addrW → s.admits addr.toNat = false →
      ∃ t, t = { s with
          spi := { s.spi with spiBusy := true }
          run := busyWith s (.block .spiTx addr.toNat len.toNat) } ∧
        exec (.spiTxBlock addr len) s = .next t ∧ contextStep t = .fault (.stuckUnadmitted addr.toNat))

/-- R204, the first step: nothing at length 0, a fault on a wrap, else an exchange of the fill byte whose answer is
stored at `addr`, with `SPI_BUSY` 1 unless it was the last; every other byte of memory reads as before; where `addr` is
not admitted the context stands at it without a step, with `SPI_BUSY` 1 and nothing exchanged (log 17, log 18; the queue
of answers log 14). -/
def Obligations.SpiRxBlockStoresItsFirstByte : Prop :=
  ∀ (s : State) (addr len : Word), (Instr.spiRxBlock addr len).wf s.cfg = true → s.spi.spiOn = true →
    s.spi.spiBusy = false → s.mem.wf = true →
    (len = 0#32 → exec (.spiRxBlock addr len) s = .next { s with run := doneWith s 0#32 }) ∧
    (len ≠ 0#32 → addr.toNat + len.toNat ≤ 2 ^ s.cfg.addrW → s.admits addr.toNat = true →
      ∃ mem, exec (.spiRxBlock addr len) s = .next { s with
        spi := { s.spi with spiBusy := decide (len ≠ 1#32) }
        mem := mem
        spiOut := s.spiOut ++ [.exchange ⟨s.cs0, s.cs1, s.spi.spiSpeed, 0xFF#8⟩]
        inputs := s.inputs.afterByte
        run := afterOneByte s len.toNat 0#32 .spiRx (addr.toNat + 1) } ∧
        Memory.read mem addr.toNat = s.received ∧
        ∀ a, a ≠ addr.toNat → Memory.read mem a = s.readByte a) ∧
    (len ≠ 0#32 → 2 ^ s.cfg.addrW < addr.toNat + len.toNat →
      exec (.spiRxBlock addr len) s = .fault (.addrWrap (encode (.spiRxBlock addr len)).w0 addr len)) ∧
    (len ≠ 0#32 → addr.toNat + len.toNat ≤ 2 ^ s.cfg.addrW → s.admits addr.toNat = false →
      ∃ t, t = { s with
          spi := { s.spi with spiBusy := true }
          run := busyWith s (.block .spiRx addr.toNat len.toNat) } ∧
        exec (.spiRxBlock addr len) s = .next t ∧ contextStep t = .fault (.stuckUnadmitted addr.toNat))

/-- R203: a whole `spi_tx_block`, its bytes one after the other, sends the bytes of memory in ascending order, and ends
with result 0, `SPI_BUSY` 0 and memory as it was. -/
def Obligations.SpiTxBlockSendsEveryByte : Prop :=
  ∀ (s : State) (addr len : Word), (Instr.spiTxBlock addr len).wf s.cfg = true → s.spi.spiOn = true →
    s.spi.spiBusy = false → len ≠ 0#32 → addr.toNat + len.toNat ≤ 2 ^ s.cfg.addrW →
    (∀ k, k < len.toNat → s.admits (addr.toNat + k) = true) →
    ∃ t u, exec (.spiTxBlock addr len) s = .next t ∧ contextRun (len.toNat - 1) t = .next u ∧
      u.run = doneWith s 0#32 ∧ u.spi = s.spi ∧ u.mem = s.mem ∧
      u.spiOut = s.spiOut ++
        (s.bytesAt addr.toNat len.toNat).map fun b => .exchange ⟨s.cs0, s.cs1, s.spi.spiSpeed, b⟩

/-- R204: a whole `spi_rx_block` stores the answers at ascending addresses, leaves every other byte, and ends with
result 0 and `SPI_BUSY` 0; each exchange sends 0xFF. The answers are taken from the model's input queue (log 14). -/
def Obligations.SpiRxBlockStoresEveryAnswer : Prop :=
  ∀ (s : State) (addr len : Word) (answers rest : List Byte), (Instr.spiRxBlock addr len).wf s.cfg = true →
    s.spi.spiOn = true → s.spi.spiBusy = false → s.mem.wf = true → len ≠ 0#32 →
    addr.toNat + len.toNat ≤ 2 ^ s.cfg.addrW → (∀ k, k < len.toNat → s.admits (addr.toNat + k) = true) →
    s.inputs.spiIn = answers ++ rest → answers.length = len.toNat →
    ∃ t u, exec (.spiRxBlock addr len) s = .next t ∧ contextRun (len.toNat - 1) t = .next u ∧
      u.run = doneWith s 0#32 ∧ u.spi = s.spi ∧ u.bytesAt addr.toNat len.toNat = answers ∧
      (∀ a, a < addr.toNat ∨ addr.toNat + len.toNat ≤ a → u.readByte a = s.readByte a) ∧
      u.spiOut = s.spiOut ++ List.replicate len.toNat (.exchange ⟨s.cs0, s.cs1, s.spi.spiSpeed, 0xFF#8⟩)

/-- R205: `spi_set_speed` writes the preset and keeps the selection. -/
def Obligations.SpiSetSpeedWritesThePreset : Prop :=
  ∀ (s : State) (p : Speed),
    (s.spi.spiOn = true → s.spi.spiBusy = false → exec (.spiSetSpeed p) s = .next { s with
      spi := { s.spi with spiSpeed := p }
      run := doneWith s 0#32 }) ∧
    (s.spi.spiOn = false → exec (.spiSetSpeed p) s = .fault (.spiUninit (encode (.spiSetSpeed p)).w0)) ∧
    (s.spi.spiOn = true → s.spi.spiBusy = true →
      exec (.spiSetSpeed p) s = .fault (.spiReentry (encode (.spiSetSpeed p)).w0 s.run.owner)) ∧
    encode (.spiSetSpeed .slow) = ⟨0x00000056#32, 0#32, 0#32⟩ ∧
    encode (.spiSetSpeed .fast) = ⟨0x00000156#32, 0#32, 0#32⟩

/-- R197: the serial clock is the reference clock divided by the preset's divisor, and `SLOW` is the lower frequency. -/
def Obligations.SlowPresetIsSlower : Prop :=
  ∀ cfg : Config, cfg.wf = true → 0 < cfg.spiRefClk →
    spiClock cfg .slow < spiClock cfg .fast ∧ 0 < spiClock cfg .slow ∧
    spiClock cfg .slow * cfg.spiDivSlow = cfg.spiRefClk ∧ spiClock cfg .fast * cfg.spiDivFast = cfg.spiRefClk

/-- R194: what the SPI devices have seen is never taken back (the list is the model's record, log 23). -/
def Obligations.SpiOutputOnlyGrows : Prop :=
  ∀ s t : State, step s = .next t → s.spiOut <+: t.spiOut

/-! ### Parallel Handshake Transport (spec/45_parallel.md) -/

/-- R221: `parallel_init` releases every line, takes the sensed level as seen, and enables the notifications; no pending
bit changes. R222: the port's lines are open-drain, a drive of 1 releases a line and a 0 pulls it low, and after
`parallel_init` each has the level the other devices give it (how they enter is the model's, log 33). Without the
transport its program is refused as a whole; that its meaning refuses there too is the model's choice (log 19). -/
def Obligations.ParallelInitConfiguresTheTransport : Prop :=
  encode .parallelInit = ⟨0x00000060#32, 0#32, 0#32⟩ ∧
  (∀ s : State, s.cfg.hasParallel = false →
    exec .parallelInit s = .refused (.configNoParallel s.run.owner s.run.pc)) ∧
  (∀ s : State, s.cfg.hasParallel = true → exec .parallelInit s = .next { s with
    par := { parOn := true, parHsOut := true, parDataOut := 0xFF#8, parEn := true, hsPrev := s.env.hsIn }
    run := doneWith s 0#32 }) ∧
  (∀ s t : State, exec .parallelInit s = .next t → ∀ line others, t.parWire line others = others) ∧
  ∀ (s : State) (others : Bool),
    (∀ k : Fin 8, s.parWire (.data k) others = if s.par.parDataOut.getLsbD k = true then others else false) ∧
    s.parWire .hsOut others = (if s.par.parHsOut = true then others else false) ∧
    s.parWire .hsIn s.env.hsIn = s.env.hsIn

/-- R223: a change of the sensed line, in either direction, makes `PAR_HS` pending once enabled, and is seen. -/
def Obligations.HandshakeEdgesBecomePending : Prop :=
  ∀ (s : State) (level : Bool), s.cfg.hasParallel = true → move (.hsIn level) s = .next { s with
    env := { s.env with hsIn := level }
    irq := { s.irq with pendPar := s.irq.pendPar || (s.par.parEn && decide (level ≠ s.par.hsPrev)) }
    par := { s.par with hsPrev := level } }

/-! ### Outcomes, notifications and contexts (spec/60_exceptions.md) -/

/-- R238 to R240 and R242: a delivery takes place exactly when the source is pending and enabled, `CPU_IE` is 1 and
nesting permits; it clears the pending bit, pushes the running context and starts the handler; a move that may not take
place changes nothing (log 25). R239: the caller's code sets `CPU_IE`, by a move of its own (log 31). -/
def Obligations.DeliveryEntersTheHandler : Prop :=
  ∀ (s : State) (src : Source),
    (s.pending src = true → s.enabled src = true → s.env.cpuIe = true →
      (s.cfg.irqNesting = .admitted ∨ s.stack = []) →
      move (.deliver src) s = .next { s.setPending src false with
        run := ⟨.handler src, 0, 0#32, none⟩
        stack := s.run :: s.stack }) ∧
    (s.pending src = false ∨ s.enabled src = false ∨ s.env.cpuIe = false ∨
        (s.cfg.irqNesting = .excluded ∧ s.stack ≠ []) →
      move (.deliver src) s = .next s) ∧
    ∀ enable : Bool, move (.cpuIe enable) s = .next { s with env := { s.env with cpuIe := enable } }

/-- R241: a handler whose program has ended gives the machine back to the interrupted context as it stood, with the
block state as the handler left it. That the end is a step of its own, at `halt` and past the last line alike, is the
model's reading (log 22). -/
def Obligations.HandlerEndResumesTheContext : Prop :=
  ∀ (s : State) (c : Context) (rest : List Context), s.run.active = none →
    (s.line = none ∨ s.line = some .halt) → s.stack = c :: rest →
    contextStep s = .next { s with run := c, stack := rest }

/-- R240 and R245: the only step that puts a context on the stack is a delivery that may take place, and it puts the
running context there as it stands. -/
def Obligations.OnlyDeliveryInterruptsAContext : Prop :=
  ∀ s t : State, step s = .next t → s.stack.length < t.stack.length →
    ∃ src, s.mayDeliver src = true ∧ t.stack = s.run :: s.stack ∧ t.run = ⟨.handler src, 0, 0#32, none⟩ ∧
      t.pending src = false

/-- R67, R176, R177, R203 and R204, every step after the first: a block command in progress takes the byte at its next
address and stands at the one after it, or completes after its last byte, an SPI block command with `SPI_BUSY` 0; nothing
else changes. R62 and R233: at an address that is not admitted there is no step, however much it has done (the name of
the stuck outcome is the model's, log 18; the queue of answers log 14). -/
def Obligations.BlockCommandsTakeTheirNextByte : Prop :=
  ∀ (s : State) (addr left : Nat), 0 < left →
    (∀ k, s.run.active = some (.block k addr left) → s.admits addr = false →
      contextStep s = .fault (.stuckUnadmitted addr)) ∧
    (∀ acc, s.run.active = some (.block (.crc7 acc) addr left) → s.admits addr = true →
      contextStep s = .next { s with
        run := afterOneByte s left ((crc7Upd acc (s.readByte addr)).setWidth 32)
          (.crc7 (crc7Upd acc (s.readByte addr))) (addr + 1) }) ∧
    (∀ acc, s.run.active = some (.block (.crc16 acc) addr left) → s.admits addr = true →
      contextStep s = .next { s with
        run := afterOneByte s left ((crc16Upd acc (s.readByte addr)).setWidth 32)
          (.crc16 (crc16Upd acc (s.readByte addr))) (addr + 1) }) ∧
    (s.run.active = some (.block .spiTx addr left) → s.admits addr = true →
      contextStep s = .next { s with
        spi := { s.spi with spiBusy := if left = 1 then false else s.spi.spiBusy }
        spiOut := s.spiOut ++ [.exchange ⟨s.cs0, s.cs1, s.spi.spiSpeed, s.readByte addr⟩]
        inputs := s.inputs.afterByte
        run := afterOneByte s left 0#32 .spiTx (addr + 1) }) ∧
    (s.run.active = some (.block .spiRx addr left) → s.admits addr = true → s.mem.wf = true →
      ∃ mem, contextStep s = .next { s with
        spi := { s.spi with spiBusy := if left = 1 then false else s.spi.spiBusy }
        mem := mem
        spiOut := s.spiOut ++ [.exchange ⟨s.cs0, s.cs1, s.spi.spiSpeed, 0xFF#8⟩]
        inputs := s.inputs.afterByte
        run := afterOneByte s left 0#32 .spiRx (addr + 1) } ∧
        Memory.read mem addr = s.received ∧ ∀ a, a ≠ addr → Memory.read mem a = s.readByte a)

/-! ### Frames over all commands -/

/-- R45, column W: each field of the block changes only by the commands the table names, at the issue of a command, and
at every later step of one in progress, where `SPI_BUSY` alone can change, after the last byte of an SPI block command.
Beside the table: a stacked context changes only by a delay (R117, R122), and no command changes the configuration (R10),
the admitted regions (R68), the environment's levels (R25, R39, R239) or the owner of its context (R240). That none
changes the caller's programs or the schedule is the model's choice (log 10, log 12). -/
def Obligations.FieldsChangeOnlyByTheirCommands : Prop :=
  (∀ (i : Instr) (s t : State), exec i s = .next t →
    (t.timeout ≠ s.timeout → ∃ u, i = .startTimeout u) ∧ t.timeout.now = s.timeout.now ∧
    (∀ l, lineBit t.out l ≠ lineBit s.out l → ∃ v, i = lineCommand l v) ∧
    (t.irq.enAtn ≠ s.irq.enAtn → ∃ v, i = .setAtnIrq v) ∧
    (t.irq.enClock ≠ s.irq.enClock → ∃ v, i = .setClockIrq v) ∧
    (t.irq.pendAtn ≠ s.irq.pendAtn → (∃ v, i = .setAtn v) ∨ i = .setAtnIrq false) ∧
    (t.irq.pendClock ≠ s.irq.pendClock → (∃ v, i = .setClock v) ∨ i = .setClockIrq false) ∧
    t.irq.pendPar = s.irq.pendPar ∧
    (t.spi.spiOn ≠ s.spi.spiOn → ∃ p, i = .spiInit p) ∧
    (t.spi.spiSpeed ≠ s.spi.spiSpeed → ∃ p, i = .spiInit p ∨ i = .spiSetSpeed p) ∧
    (t.spi.spiSel ≠ s.spi.spiSel → (∃ p, i = .spiInit p) ∨ ∃ dev, i = .spiSelectDevice dev) ∧
    (t.spi.spiBusy ≠ s.spi.spiBusy → ∃ addr len, i = .spiTxBlock addr len ∨ i = .spiRxBlock addr len) ∧
    (t.par ≠ s.par → i = .parallelInit) ∧
    (t.stack ≠ s.stack → ∃ n, i = .delayUs n ∨ i = .delayMs n) ∧
    t.cfg = s.cfg ∧ t.progs = s.progs ∧ t.env = s.env ∧ t.admitted = s.admitted ∧ t.sched = s.sched ∧
    t.run.owner = s.run.owner) ∧
  ∀ s t : State, s.run.active ≠ none → contextStep s = .next t →
    t.timeout = s.timeout ∧ t.out = s.out ∧ t.irq = s.irq ∧ t.par = s.par ∧ t.stack = s.stack ∧
    t.spi.spiOn = s.spi.spiOn ∧ t.spi.spiSpeed = s.spi.spiSpeed ∧ t.spi.spiSel = s.spi.spiSel ∧
    (t.spi.spiBusy ≠ s.spi.spiBusy → ∃ addr, s.run.active = some (.block .spiTx addr 1) ∨
      s.run.active = some (.block .spiRx addr 1)) ∧
    t.cfg = s.cfg ∧ t.progs = s.progs ∧ t.env = s.env ∧ t.admitted = s.admitted ∧ t.sched = s.sched ∧
    t.run.owner = s.run.owner

/-- R61: of the commands `spi_rx_block` alone stores to memory, and each of its steps stores the one byte at its address.
R70: the caller's code may store one byte of the memory it owns, which changes that byte and nothing else; no other move
stores (the store as a move of its own, at any boundary, is the model's, log 24, log 34). R62: no byte that is not admitted ever changes. -/
def Obligations.OnlyReceivesAndCallerStoresWriteMemory : Prop :=
  (∀ (i : Instr) (s t : State), exec i s = .next t →
    (∀ addr len, i = .spiRxBlock addr len → ∀ a, a ≠ addr.toNat ∨ len = 0#32 → t.readByte a = s.readByte a) ∧
    ((∀ addr len, i ≠ .spiRxBlock addr len) → ∀ a, t.readByte a = s.readByte a)) ∧
  (∀ s t : State, s.run.active ≠ none → contextStep s = .next t →
    ∀ a, (∀ left, s.run.active ≠ some (.block .spiRx a left)) → t.readByte a = s.readByte a) ∧
  (∀ (s : State) (a : Nat) (v : Byte),
    (s.admits a = true → s.mem.wf = true → ∃ mem, move (.store a v) s = .next { s with mem := mem } ∧
      Memory.read mem a = v ∧ ∀ b, b ≠ a → Memory.read mem b = s.readByte b) ∧
    (s.admits a = false → move (.store a v) s = .next s)) ∧
  (∀ (e : Event) (s t : State), e ≠ .run → (∀ a v, e ≠ .store a v) → move e s = .next t → t.mem = s.mem) ∧
  ∀ (s t : State) (a : Nat), s.admits a = false → step s = .next t → t.readByte a = s.readByte a

/-- R10 and R68: the configuration record and the admitted regions of `MEM` are fixed for a run. That no step changes the
caller's programs either is the model's choice (log 10). -/
def Obligations.ConfigurationNeverChanges : Prop :=
  ∀ s t : State, step s = .next t → t.cfg = s.cfg ∧ t.progs = s.progs ∧ t.admitted = s.admitted

/-! ### Reset and the invariant (spec/70_reset_and_hazards.md) -/

/-- R260 and R261: every field has the reset value of the table of R45, the unspecified ones any value of their type;
no handler runs, no command is in progress. The values of `State.reset` itself are the model's (log 1, log 4 to log
9). -/
def Obligations.ResetLeavesTheTable : Prop :=
  (∀ l : Launch,
    (State.launch l).timeout.toRem = 0 ∧ (State.launch l).out = ⟨true, true, true, true⟩ ∧
    (State.launch l).irq = ⟨false, false, false, false, false⟩ ∧
    (State.launch l).spi.spiOn = false ∧ (State.launch l).spi.spiSel = .none ∧
    (State.launch l).spi.spiBusy = false ∧ (State.launch l).par.parOn = false ∧
    (State.launch l).par.parEn = false ∧ (State.launch l).par.hsPrev = (State.launch l).env.hsIn ∧
    (State.launch l).stack = [] ∧ (State.launch l).run.active = none ∧ (State.launch l).run.owner = .main ∧
    (State.launch l).run.pc = 0 ∧ (State.launch l).run.res = 0#32 ∧ (State.launch l).cfg = l.cfg) ∧
  (∀ (cfg : Config) (toExp hsOut : Bool) (now : Nat) (p : Speed) (data : Byte), now < 2 ^ cfg.tickW →
    ∃ l : Launch, l.cfg = cfg ∧ (State.launch l).timeout.toExp = toExp ∧ (State.launch l).timeout.now = now ∧
      (State.launch l).spi.spiSpeed = p ∧ (State.launch l).par.parHsOut = hsOut ∧
      (State.launch l).par.parDataOut = data) ∧
  ∃ l : Launch, State.reset = State.launch l

/-- The invariant holds at reset, for every choice of launch values with a canonical memory inside its address space. -/
def Obligations.ResetMeetsTheInvariant : Prop :=
  State.reset.Inv ∧
  ∀ l : Launch, l.mem.wf = true → (∀ c ∈ l.mem, c.1 < 2 ^ l.cfg.addrW) → (State.launch l).Inv

/-- Every step of every agent keeps the invariant. -/
def Obligations.StepKeepsTheInvariant : Prop :=
  ∀ s t : State, s.Inv → step s = .next t → t.Inv
end

