-- ==== Sys2Proof/Laws/Decode.lean ====
section
/-!
SUPPORT. The opcode map has no overlap, and the fields of a placed operand read back.
-/

namespace Sys2Proof

/-- No two rows of the opcode map share an opcode (spec/30_encoding.md R94). -/
theorem Mnemonic.op_pairwise : Mnemonic.all.Pairwise fun a b => a.op ≠ b.op := by decide

/-- Every row is listed. -/
theorem Mnemonic.mem_all (m : Mnemonic) : m ∈ Mnemonic.all := by cases m <;> decide

/-- The opcode of a row selects that row (spec/30_encoding.md R94). -/
@[simp] theorem Mnemonic.ofOp_op (m : Mnemonic) : Mnemonic.ofOp m.op = some m := by cases m <;> decide

/-- A row an opcode selects has that opcode. -/
theorem Mnemonic.op_of_ofOp {op : BitVec 8} {m : Mnemonic} (h : Mnemonic.ofOp op = some m) : m.op = op := by
  simpa using List.find?_some h

/-- The mask of a format covers the opcode field (spec/30_encoding.md R94). -/
theorem Format.mask_op (f : Format) : f.mask &&& 0xFF#32 = 0xFF#32 := by cases f <;> decide

@[simp] theorem selectorOfBits_bitsOfSelector (dev : Selector) : selectorOfBits (bitsOfSelector dev) = dev := by
  cases dev <;> decide

@[simp] theorem bitsOfSelector_selectorOfBits (sel : BitVec 2) : bitsOfSelector (selectorOfBits sel) = sel := by
  revert sel; decide

@[simp] theorem speedOfBit_bitOfSpeed (p : Speed) : speedOfBit (bitOfSpeed p) = p := by cases p <;> rfl

@[simp] theorem bitOfSpeed_speedOfBit (v : Bool) : bitOfSpeed (speedOfBit v) = v := by cases v <;> rfl

/-- A bit of a placed field (spec/30_encoding.md R96). -/
theorem placed_getLsbD {n : Nat} (field : BitVec n) (lsb k : Nat) (hk : k < 32) :
    (placed field lsb).getLsbD k = (decide (lsb ≤ k) && field.getLsbD (k - lsb)) := by
  by_cases h : lsb ≤ k
  · simp [placed, hk, h, Nat.not_lt.mpr h]
  · simp [placed, hk, h, Nat.lt_of_not_le h]

/-- A bit of the value of a row's fixed bits. -/
theorem Mnemonic.matchWord_getLsbD (m : Mnemonic) (k : Nat) (hk : k < 32) :
    m.matchWord.getLsbD k = m.op.getLsbD k := by
  simp [Mnemonic.matchWord, hk]

/-- The value of a row's fixed bits lies within its mask (spec/30_encoding.md R94). -/
@[simp] theorem Mnemonic.matchWord_mask (m : Mnemonic) : m.matchWord &&& m.format.mask = m.matchWord := by
  cases m <;> decide

/-- The opcode field of a row's fixed bits. -/
@[simp] theorem Mnemonic.opField_matchWord (m : Mnemonic) : opField (m.matchWord &&& 0xFF#32) = m.op := by
  cases m <;> decide

/-- The opcode field depends on the low byte alone. -/
theorem opField_low (w0 : Word) : opField (w0 &&& 0xFF#32) = opField w0 := by
  ext k hk
  have hff : (0xFF#32).getLsbD k = true := by interval_cases k <;> decide
  simp [opField, hff]

/-- The command word of an encoded command (spec/30_encoding.md R96). -/
theorem encode_w0 (i : Instr) : (encode i).w0 = i.mnemonic.matchWord ||| i.operandBits := by cases i <;> rfl

/-- The row of a decoded command is the row its opcode selects. -/
theorem Mnemonic.command_mnemonic (m : Mnemonic) (w : Words) : (m.command w).mnemonic = m := by cases m <;> rfl

/-- The ways decoding answers a command (spec/30_encoding.md R95). -/
theorem decode_ok {cfg : Config} {w : Words} {i : Instr} (h : decode cfg w = .ok i) :
    ∃ m, Mnemonic.ofOp (opField w.w0) = some m ∧ w.w0 &&& m.format.mask = m.matchWord ∧
      ¬(m.format.isBlock = true ∧ cfg.arch = .narrow8 ∧ w.w1.extractLsb' 16 16 ≠ 0#16) ∧
      ¬((m = .delayUs ∨ m = .delayMs) ∧ cfg.arch = .narrow8) ∧
      ¬(m = .startTimeout ∧ (imm24Field w.w0 = 0#24 ∨ cfg.toMax < (imm24Field w.w0).toNat)) ∧
      i = m.command w := by
  unfold decode at h
  split at h
  · cases h
  · rename_i m hm
    split at h
    · cases h
    · rename_i h1
      split at h
      · cases h
      · rename_i h2
        split at h
        · cases h
        · rename_i h3
          split at h
          · cases h
          · rename_i h4
            simp only [ne_eq, not_not] at h1
            exact ⟨m, hm, h1, h2, h3, h4, (Except.ok.inj h).symm⟩

/-- A polarity flag changes no decoding: the decoder looks at the architecture and `TO_MAX` alone
(spec/30_encoding.md R95). -/
theorem decode_congr {cfg cfg' : Config} (ha : cfg'.arch = cfg.arch) (ht : cfg'.toMax = cfg.toMax) (w : Words) :
    decode cfg' w = decode cfg w := by
  simp only [decode, ha, ht]

end Sys2Proof
end

