-- ==== Sys2Proof/Laws/State.lean ====
section
/-!
SUPPORT. What each update of the state does to each field, true by definition, so that no later proof unfolds a record
update. First the unconditional updates, then those that depend on a source, a line or a flag.
-/

namespace Sys2Proof.Machine

variable (s : State)

@[simp] theorem State.complete_cfg (r : Word) : (s.complete r).cfg = s.cfg := rfl
@[simp] theorem State.complete_progs (r : Word) : (s.complete r).progs = s.progs := rfl
@[simp] theorem State.complete_timeout (r : Word) : (s.complete r).timeout = s.timeout := rfl
@[simp] theorem State.complete_out (r : Word) : (s.complete r).out = s.out := rfl
@[simp] theorem State.complete_irq (r : Word) : (s.complete r).irq = s.irq := rfl
@[simp] theorem State.complete_spi (r : Word) : (s.complete r).spi = s.spi := rfl
@[simp] theorem State.complete_par (r : Word) : (s.complete r).par = s.par := rfl
@[simp] theorem State.complete_mem (r : Word) : (s.complete r).mem = s.mem := rfl
@[simp] theorem State.complete_admitted (r : Word) : (s.complete r).admitted = s.admitted := rfl
@[simp] theorem State.complete_env (r : Word) : (s.complete r).env = s.env := rfl
@[simp] theorem State.complete_run (r : Word) : (s.complete r).run = { s.run with pc := s.run.pc + 1, res := r, active := none } := rfl
@[simp] theorem State.complete_stack (r : Word) : (s.complete r).stack = s.stack := rfl
@[simp] theorem State.complete_spiOut (r : Word) : (s.complete r).spiOut = s.spiOut := rfl
@[simp] theorem State.complete_sched (r : Word) : (s.complete r).sched = s.sched := rfl
@[simp] theorem State.complete_inputs (r : Word) : (s.complete r).inputs = s.inputs := rfl

@[simp] theorem State.setActive_cfg (a : Active) : (s.setActive a).cfg = s.cfg := rfl
@[simp] theorem State.setActive_progs (a : Active) : (s.setActive a).progs = s.progs := rfl
@[simp] theorem State.setActive_timeout (a : Active) : (s.setActive a).timeout = s.timeout := rfl
@[simp] theorem State.setActive_out (a : Active) : (s.setActive a).out = s.out := rfl
@[simp] theorem State.setActive_irq (a : Active) : (s.setActive a).irq = s.irq := rfl
@[simp] theorem State.setActive_spi (a : Active) : (s.setActive a).spi = s.spi := rfl
@[simp] theorem State.setActive_par (a : Active) : (s.setActive a).par = s.par := rfl
@[simp] theorem State.setActive_mem (a : Active) : (s.setActive a).mem = s.mem := rfl
@[simp] theorem State.setActive_admitted (a : Active) : (s.setActive a).admitted = s.admitted := rfl
@[simp] theorem State.setActive_env (a : Active) : (s.setActive a).env = s.env := rfl
@[simp] theorem State.setActive_run (a : Active) : (s.setActive a).run = { s.run with active := some a } := rfl
@[simp] theorem State.setActive_stack (a : Active) : (s.setActive a).stack = s.stack := rfl
@[simp] theorem State.setActive_spiOut (a : Active) : (s.setActive a).spiOut = s.spiOut := rfl
@[simp] theorem State.setActive_sched (a : Active) : (s.setActive a).sched = s.sched := rfl
@[simp] theorem State.setActive_inputs (a : Active) : (s.setActive a).inputs = s.inputs := rfl

@[simp] theorem State.jump_cfg (n : Nat) : (s.jump n).cfg = s.cfg := rfl
@[simp] theorem State.jump_progs (n : Nat) : (s.jump n).progs = s.progs := rfl
@[simp] theorem State.jump_timeout (n : Nat) : (s.jump n).timeout = s.timeout := rfl
@[simp] theorem State.jump_out (n : Nat) : (s.jump n).out = s.out := rfl
@[simp] theorem State.jump_irq (n : Nat) : (s.jump n).irq = s.irq := rfl
@[simp] theorem State.jump_spi (n : Nat) : (s.jump n).spi = s.spi := rfl
@[simp] theorem State.jump_par (n : Nat) : (s.jump n).par = s.par := rfl
@[simp] theorem State.jump_mem (n : Nat) : (s.jump n).mem = s.mem := rfl
@[simp] theorem State.jump_admitted (n : Nat) : (s.jump n).admitted = s.admitted := rfl
@[simp] theorem State.jump_env (n : Nat) : (s.jump n).env = s.env := rfl
@[simp] theorem State.jump_run (n : Nat) : (s.jump n).run = { s.run with pc := n } := rfl
@[simp] theorem State.jump_stack (n : Nat) : (s.jump n).stack = s.stack := rfl
@[simp] theorem State.jump_spiOut (n : Nat) : (s.jump n).spiOut = s.spiOut := rfl
@[simp] theorem State.jump_sched (n : Nat) : (s.jump n).sched = s.sched := rfl
@[simp] theorem State.jump_inputs (n : Nat) : (s.jump n).inputs = s.inputs := rfl

@[simp] theorem State.writeByte_cfg (a : Nat) (v : Byte) : (s.writeByte a v).cfg = s.cfg := rfl
@[simp] theorem State.writeByte_progs (a : Nat) (v : Byte) : (s.writeByte a v).progs = s.progs := rfl
@[simp] theorem State.writeByte_timeout (a : Nat) (v : Byte) : (s.writeByte a v).timeout = s.timeout := rfl
@[simp] theorem State.writeByte_out (a : Nat) (v : Byte) : (s.writeByte a v).out = s.out := rfl
@[simp] theorem State.writeByte_irq (a : Nat) (v : Byte) : (s.writeByte a v).irq = s.irq := rfl
@[simp] theorem State.writeByte_spi (a : Nat) (v : Byte) : (s.writeByte a v).spi = s.spi := rfl
@[simp] theorem State.writeByte_par (a : Nat) (v : Byte) : (s.writeByte a v).par = s.par := rfl
@[simp] theorem State.writeByte_mem (a : Nat) (v : Byte) : (s.writeByte a v).mem = s.mem.write a v := rfl
@[simp] theorem State.writeByte_admitted (a : Nat) (v : Byte) : (s.writeByte a v).admitted = s.admitted := rfl
@[simp] theorem State.writeByte_env (a : Nat) (v : Byte) : (s.writeByte a v).env = s.env := rfl
@[simp] theorem State.writeByte_run (a : Nat) (v : Byte) : (s.writeByte a v).run = s.run := rfl
@[simp] theorem State.writeByte_stack (a : Nat) (v : Byte) : (s.writeByte a v).stack = s.stack := rfl
@[simp] theorem State.writeByte_spiOut (a : Nat) (v : Byte) : (s.writeByte a v).spiOut = s.spiOut := rfl
@[simp] theorem State.writeByte_sched (a : Nat) (v : Byte) : (s.writeByte a v).sched = s.sched := rfl
@[simp] theorem State.writeByte_inputs (a : Nat) (v : Byte) : (s.writeByte a v).inputs = s.inputs := rfl

@[simp] theorem State.exchanged_cfg (tx : Byte) : (s.exchanged tx).cfg = s.cfg := rfl
@[simp] theorem State.exchanged_progs (tx : Byte) : (s.exchanged tx).progs = s.progs := rfl
@[simp] theorem State.exchanged_timeout (tx : Byte) : (s.exchanged tx).timeout = s.timeout := rfl
@[simp] theorem State.exchanged_out (tx : Byte) : (s.exchanged tx).out = s.out := rfl
@[simp] theorem State.exchanged_irq (tx : Byte) : (s.exchanged tx).irq = s.irq := rfl
@[simp] theorem State.exchanged_spi (tx : Byte) : (s.exchanged tx).spi = s.spi := rfl
@[simp] theorem State.exchanged_par (tx : Byte) : (s.exchanged tx).par = s.par := rfl
@[simp] theorem State.exchanged_mem (tx : Byte) : (s.exchanged tx).mem = s.mem := rfl
@[simp] theorem State.exchanged_admitted (tx : Byte) : (s.exchanged tx).admitted = s.admitted := rfl
@[simp] theorem State.exchanged_env (tx : Byte) : (s.exchanged tx).env = s.env := rfl
@[simp] theorem State.exchanged_run (tx : Byte) : (s.exchanged tx).run = s.run := rfl
@[simp] theorem State.exchanged_stack (tx : Byte) : (s.exchanged tx).stack = s.stack := rfl
@[simp] theorem State.exchanged_spiOut (tx : Byte) : (s.exchanged tx).spiOut = s.spiOut ++ [.exchange (s.spiEvent tx)] := rfl
@[simp] theorem State.exchanged_sched (tx : Byte) : (s.exchanged tx).sched = s.sched := rfl
@[simp] theorem State.exchanged_inputs (tx : Byte) : (s.exchanged tx).inputs = s.inputs.afterByte := rfl

@[simp] theorem State.selectDevice_cfg (dev : Selector) : (s.selectDevice dev).cfg = s.cfg := rfl
@[simp] theorem State.selectDevice_progs (dev : Selector) : (s.selectDevice dev).progs = s.progs := rfl
@[simp] theorem State.selectDevice_timeout (dev : Selector) : (s.selectDevice dev).timeout = s.timeout := rfl
@[simp] theorem State.selectDevice_out (dev : Selector) : (s.selectDevice dev).out = s.out := rfl
@[simp] theorem State.selectDevice_irq (dev : Selector) : (s.selectDevice dev).irq = s.irq := rfl
@[simp] theorem State.selectDevice_spi (dev : Selector) : (s.selectDevice dev).spi = { s.spi with spiSel := dev } := rfl
@[simp] theorem State.selectDevice_par (dev : Selector) : (s.selectDevice dev).par = s.par := rfl
@[simp] theorem State.selectDevice_mem (dev : Selector) : (s.selectDevice dev).mem = s.mem := rfl
@[simp] theorem State.selectDevice_admitted (dev : Selector) : (s.selectDevice dev).admitted = s.admitted := rfl
@[simp] theorem State.selectDevice_env (dev : Selector) : (s.selectDevice dev).env = s.env := rfl
@[simp] theorem State.selectDevice_run (dev : Selector) : (s.selectDevice dev).run = s.run := rfl
@[simp] theorem State.selectDevice_stack (dev : Selector) : (s.selectDevice dev).stack = s.stack := rfl
@[simp] theorem State.selectDevice_spiOut (dev : Selector) : (s.selectDevice dev).spiOut = if cs0Of dev = s.cs0 ∧ cs1Of dev = s.cs1 then s.spiOut else s.spiOut ++ [.select (cs0Of dev) (cs1Of dev)] := rfl
@[simp] theorem State.selectDevice_sched (dev : Selector) : (s.selectDevice dev).sched = s.sched := rfl
@[simp] theorem State.selectDevice_inputs (dev : Selector) : (s.selectDevice dev).inputs = s.inputs := rfl

@[simp] theorem State.armTimeout_cfg (u : Nat) : (s.armTimeout u).cfg = s.cfg := rfl
@[simp] theorem State.armTimeout_progs (u : Nat) : (s.armTimeout u).progs = s.progs := rfl
@[simp] theorem State.armTimeout_timeout (u : Nat) : (s.armTimeout u).timeout = { s.timeout with toRem := s.cfg.ticks u, toExp := false } := rfl
@[simp] theorem State.armTimeout_out (u : Nat) : (s.armTimeout u).out = s.out := rfl
@[simp] theorem State.armTimeout_irq (u : Nat) : (s.armTimeout u).irq = s.irq := rfl
@[simp] theorem State.armTimeout_spi (u : Nat) : (s.armTimeout u).spi = s.spi := rfl
@[simp] theorem State.armTimeout_par (u : Nat) : (s.armTimeout u).par = s.par := rfl
@[simp] theorem State.armTimeout_mem (u : Nat) : (s.armTimeout u).mem = s.mem := rfl
@[simp] theorem State.armTimeout_admitted (u : Nat) : (s.armTimeout u).admitted = s.admitted := rfl
@[simp] theorem State.armTimeout_env (u : Nat) : (s.armTimeout u).env = s.env := rfl
@[simp] theorem State.armTimeout_run (u : Nat) : (s.armTimeout u).run = s.run := rfl
@[simp] theorem State.armTimeout_stack (u : Nat) : (s.armTimeout u).stack = s.stack := rfl
@[simp] theorem State.armTimeout_spiOut (u : Nat) : (s.armTimeout u).spiOut = s.spiOut := rfl
@[simp] theorem State.armTimeout_sched (u : Nat) : (s.armTimeout u).sched = s.sched := rfl
@[simp] theorem State.armTimeout_inputs (u : Nat) : (s.armTimeout u).inputs = s.inputs := rfl

@[simp] theorem State.drawInterruptedDelays_cfg : (s.drawInterruptedDelays).cfg = s.cfg := rfl
@[simp] theorem State.drawInterruptedDelays_progs : (s.drawInterruptedDelays).progs = s.progs := rfl
@[simp] theorem State.drawInterruptedDelays_timeout : (s.drawInterruptedDelays).timeout = s.timeout := rfl
@[simp] theorem State.drawInterruptedDelays_out : (s.drawInterruptedDelays).out = s.out := rfl
@[simp] theorem State.drawInterruptedDelays_irq : (s.drawInterruptedDelays).irq = s.irq := rfl
@[simp] theorem State.drawInterruptedDelays_spi : (s.drawInterruptedDelays).spi = s.spi := rfl
@[simp] theorem State.drawInterruptedDelays_par : (s.drawInterruptedDelays).par = s.par := rfl
@[simp] theorem State.drawInterruptedDelays_mem : (s.drawInterruptedDelays).mem = s.mem := rfl
@[simp] theorem State.drawInterruptedDelays_admitted : (s.drawInterruptedDelays).admitted = s.admitted := rfl
@[simp] theorem State.drawInterruptedDelays_env : (s.drawInterruptedDelays).env = s.env := rfl
@[simp] theorem State.drawInterruptedDelays_run : (s.drawInterruptedDelays).run = s.run := rfl
@[simp] theorem State.drawInterruptedDelays_stack : (s.drawInterruptedDelays).stack = (drawDelays s.stack s.inputs.draws).1 := rfl
@[simp] theorem State.drawInterruptedDelays_spiOut : (s.drawInterruptedDelays).spiOut = s.spiOut := rfl
@[simp] theorem State.drawInterruptedDelays_sched : (s.drawInterruptedDelays).sched = s.sched := rfl
@[simp] theorem State.drawInterruptedDelays_inputs : (s.drawInterruptedDelays).inputs = { s.inputs with draws := (drawDelays s.stack s.inputs.draws).2 } := rfl

@[simp] theorem State.timeStep_cfg : (s.timeStep).cfg = s.cfg := rfl
@[simp] theorem State.timeStep_progs : (s.timeStep).progs = s.progs := rfl
@[simp] theorem State.timeStep_timeout : (s.timeStep).timeout = s.timeout.tick s.cfg.tickW := rfl
@[simp] theorem State.timeStep_out : (s.timeStep).out = s.out := rfl
@[simp] theorem State.timeStep_irq : (s.timeStep).irq = s.irq := rfl
@[simp] theorem State.timeStep_spi : (s.timeStep).spi = s.spi := rfl
@[simp] theorem State.timeStep_par : (s.timeStep).par = s.par := rfl
@[simp] theorem State.timeStep_mem : (s.timeStep).mem = s.mem := rfl
@[simp] theorem State.timeStep_admitted : (s.timeStep).admitted = s.admitted := rfl
@[simp] theorem State.timeStep_env : (s.timeStep).env = s.env := rfl
@[simp] theorem State.timeStep_run : (s.timeStep).run = s.run.tick := rfl
@[simp] theorem State.timeStep_stack : (s.timeStep).stack = s.stack.map Context.tick := rfl
@[simp] theorem State.timeStep_spiOut : (s.timeStep).spiOut = s.spiOut := rfl
@[simp] theorem State.timeStep_sched : (s.timeStep).sched = s.sched := rfl
@[simp] theorem State.timeStep_inputs : (s.timeStep).inputs = s.inputs := rfl

@[simp] theorem State.setSpeed_cfg (p : Speed) : (s.setSpeed p).cfg = s.cfg := rfl
@[simp] theorem State.setSpeed_progs (p : Speed) : (s.setSpeed p).progs = s.progs := rfl
@[simp] theorem State.setSpeed_timeout (p : Speed) : (s.setSpeed p).timeout = s.timeout := rfl
@[simp] theorem State.setSpeed_out (p : Speed) : (s.setSpeed p).out = s.out := rfl
@[simp] theorem State.setSpeed_irq (p : Speed) : (s.setSpeed p).irq = s.irq := rfl
@[simp] theorem State.setSpeed_spi (p : Speed) : (s.setSpeed p).spi = { s.spi with spiSpeed := p } := rfl
@[simp] theorem State.setSpeed_par (p : Speed) : (s.setSpeed p).par = s.par := rfl
@[simp] theorem State.setSpeed_mem (p : Speed) : (s.setSpeed p).mem = s.mem := rfl
@[simp] theorem State.setSpeed_admitted (p : Speed) : (s.setSpeed p).admitted = s.admitted := rfl
@[simp] theorem State.setSpeed_env (p : Speed) : (s.setSpeed p).env = s.env := rfl
@[simp] theorem State.setSpeed_run (p : Speed) : (s.setSpeed p).run = s.run := rfl
@[simp] theorem State.setSpeed_stack (p : Speed) : (s.setSpeed p).stack = s.stack := rfl
@[simp] theorem State.setSpeed_spiOut (p : Speed) : (s.setSpeed p).spiOut = s.spiOut := rfl
@[simp] theorem State.setSpeed_sched (p : Speed) : (s.setSpeed p).sched = s.sched := rfl
@[simp] theorem State.setSpeed_inputs (p : Speed) : (s.setSpeed p).inputs = s.inputs := rfl

@[simp] theorem State.turnSpiOn_cfg : (s.turnSpiOn).cfg = s.cfg := rfl
@[simp] theorem State.turnSpiOn_progs : (s.turnSpiOn).progs = s.progs := rfl
@[simp] theorem State.turnSpiOn_timeout : (s.turnSpiOn).timeout = s.timeout := rfl
@[simp] theorem State.turnSpiOn_out : (s.turnSpiOn).out = s.out := rfl
@[simp] theorem State.turnSpiOn_irq : (s.turnSpiOn).irq = s.irq := rfl
@[simp] theorem State.turnSpiOn_spi : (s.turnSpiOn).spi = { s.spi with spiOn := true } := rfl
@[simp] theorem State.turnSpiOn_par : (s.turnSpiOn).par = s.par := rfl
@[simp] theorem State.turnSpiOn_mem : (s.turnSpiOn).mem = s.mem := rfl
@[simp] theorem State.turnSpiOn_admitted : (s.turnSpiOn).admitted = s.admitted := rfl
@[simp] theorem State.turnSpiOn_env : (s.turnSpiOn).env = s.env := rfl
@[simp] theorem State.turnSpiOn_run : (s.turnSpiOn).run = s.run := rfl
@[simp] theorem State.turnSpiOn_stack : (s.turnSpiOn).stack = s.stack := rfl
@[simp] theorem State.turnSpiOn_spiOut : (s.turnSpiOn).spiOut = s.spiOut := rfl
@[simp] theorem State.turnSpiOn_sched : (s.turnSpiOn).sched = s.sched := rfl
@[simp] theorem State.turnSpiOn_inputs : (s.turnSpiOn).inputs = s.inputs := rfl

@[simp] theorem State.initParallel_cfg : (s.initParallel).cfg = s.cfg := rfl
@[simp] theorem State.initParallel_progs : (s.initParallel).progs = s.progs := rfl
@[simp] theorem State.initParallel_timeout : (s.initParallel).timeout = s.timeout := rfl
@[simp] theorem State.initParallel_out : (s.initParallel).out = s.out := rfl
@[simp] theorem State.initParallel_irq : (s.initParallel).irq = s.irq := rfl
@[simp] theorem State.initParallel_spi : (s.initParallel).spi = s.spi := rfl
@[simp] theorem State.initParallel_par : (s.initParallel).par = { parOn := true, parHsOut := true, parDataOut := 0xFF#8, parEn := true, hsPrev := s.env.hsIn } := rfl
@[simp] theorem State.initParallel_mem : (s.initParallel).mem = s.mem := rfl
@[simp] theorem State.initParallel_admitted : (s.initParallel).admitted = s.admitted := rfl
@[simp] theorem State.initParallel_env : (s.initParallel).env = s.env := rfl
@[simp] theorem State.initParallel_run : (s.initParallel).run = s.run := rfl
@[simp] theorem State.initParallel_stack : (s.initParallel).stack = s.stack := rfl
@[simp] theorem State.initParallel_spiOut : (s.initParallel).spiOut = s.spiOut := rfl
@[simp] theorem State.initParallel_sched : (s.initParallel).sched = s.sched := rfl
@[simp] theorem State.initParallel_inputs : (s.initParallel).inputs = s.inputs := rfl

@[simp] theorem State.setTurn_cfg (turn : Turn) : (s.setTurn turn).cfg = s.cfg := rfl
@[simp] theorem State.setTurn_progs (turn : Turn) : (s.setTurn turn).progs = s.progs := rfl
@[simp] theorem State.setTurn_timeout (turn : Turn) : (s.setTurn turn).timeout = s.timeout := rfl
@[simp] theorem State.setTurn_out (turn : Turn) : (s.setTurn turn).out = s.out := rfl
@[simp] theorem State.setTurn_irq (turn : Turn) : (s.setTurn turn).irq = s.irq := rfl
@[simp] theorem State.setTurn_spi (turn : Turn) : (s.setTurn turn).spi = s.spi := rfl
@[simp] theorem State.setTurn_par (turn : Turn) : (s.setTurn turn).par = s.par := rfl
@[simp] theorem State.setTurn_mem (turn : Turn) : (s.setTurn turn).mem = s.mem := rfl
@[simp] theorem State.setTurn_admitted (turn : Turn) : (s.setTurn turn).admitted = s.admitted := rfl
@[simp] theorem State.setTurn_env (turn : Turn) : (s.setTurn turn).env = s.env := rfl
@[simp] theorem State.setTurn_run (turn : Turn) : (s.setTurn turn).run = s.run := rfl
@[simp] theorem State.setTurn_stack (turn : Turn) : (s.setTurn turn).stack = s.stack := rfl
@[simp] theorem State.setTurn_spiOut (turn : Turn) : (s.setTurn turn).spiOut = s.spiOut := rfl
@[simp] theorem State.setTurn_sched (turn : Turn) : (s.setTurn turn).sched = { s.sched with turn := turn } := rfl
@[simp] theorem State.setTurn_inputs (turn : Turn) : (s.setTurn turn).inputs = s.inputs := rfl

@[simp] theorem State.setPending_cfg (src : Source) (v : Bool) : (s.setPending src v).cfg = s.cfg := by
  cases src <;> rfl
@[simp] theorem State.setPending_progs (src : Source) (v : Bool) : (s.setPending src v).progs = s.progs := by
  cases src <;> rfl
@[simp] theorem State.setPending_timeout (src : Source) (v : Bool) : (s.setPending src v).timeout = s.timeout := by
  cases src <;> rfl
@[simp] theorem State.setPending_out (src : Source) (v : Bool) : (s.setPending src v).out = s.out := by
  cases src <;> rfl
@[simp] theorem State.setPending_spi (src : Source) (v : Bool) : (s.setPending src v).spi = s.spi := by
  cases src <;> rfl
@[simp] theorem State.setPending_par (src : Source) (v : Bool) : (s.setPending src v).par = s.par := by
  cases src <;> rfl
@[simp] theorem State.setPending_mem (src : Source) (v : Bool) : (s.setPending src v).mem = s.mem := by
  cases src <;> rfl
@[simp] theorem State.setPending_admitted (src : Source) (v : Bool) : (s.setPending src v).admitted = s.admitted := by
  cases src <;> rfl
@[simp] theorem State.setPending_env (src : Source) (v : Bool) : (s.setPending src v).env = s.env := by
  cases src <;> rfl
@[simp] theorem State.setPending_run (src : Source) (v : Bool) : (s.setPending src v).run = s.run := by
  cases src <;> rfl
@[simp] theorem State.setPending_stack (src : Source) (v : Bool) : (s.setPending src v).stack = s.stack := by
  cases src <;> rfl
@[simp] theorem State.setPending_spiOut (src : Source) (v : Bool) : (s.setPending src v).spiOut = s.spiOut := by
  cases src <;> rfl
@[simp] theorem State.setPending_sched (src : Source) (v : Bool) : (s.setPending src v).sched = s.sched := by
  cases src <;> rfl
@[simp] theorem State.setPending_inputs (src : Source) (v : Bool) : (s.setPending src v).inputs = s.inputs := by
  cases src <;> rfl

@[simp] theorem State.edge_cfg (l : BusLine) : (s.edge l).cfg = s.cfg := by
  cases l <;> simp only [State.edge] <;> (try split) <;> simp
@[simp] theorem State.edge_progs (l : BusLine) : (s.edge l).progs = s.progs := by
  cases l <;> simp only [State.edge] <;> (try split) <;> simp
@[simp] theorem State.edge_timeout (l : BusLine) : (s.edge l).timeout = s.timeout := by
  cases l <;> simp only [State.edge] <;> (try split) <;> simp
@[simp] theorem State.edge_out (l : BusLine) : (s.edge l).out = s.out := by
  cases l <;> simp only [State.edge] <;> (try split) <;> simp
@[simp] theorem State.edge_spi (l : BusLine) : (s.edge l).spi = s.spi := by
  cases l <;> simp only [State.edge] <;> (try split) <;> simp
@[simp] theorem State.edge_par (l : BusLine) : (s.edge l).par = s.par := by
  cases l <;> simp only [State.edge] <;> (try split) <;> simp
@[simp] theorem State.edge_mem (l : BusLine) : (s.edge l).mem = s.mem := by
  cases l <;> simp only [State.edge] <;> (try split) <;> simp
@[simp] theorem State.edge_admitted (l : BusLine) : (s.edge l).admitted = s.admitted := by
  cases l <;> simp only [State.edge] <;> (try split) <;> simp
@[simp] theorem State.edge_env (l : BusLine) : (s.edge l).env = s.env := by
  cases l <;> simp only [State.edge] <;> (try split) <;> simp
@[simp] theorem State.edge_run (l : BusLine) : (s.edge l).run = s.run := by
  cases l <;> simp only [State.edge] <;> (try split) <;> simp
@[simp] theorem State.edge_stack (l : BusLine) : (s.edge l).stack = s.stack := by
  cases l <;> simp only [State.edge] <;> (try split) <;> simp
@[simp] theorem State.edge_spiOut (l : BusLine) : (s.edge l).spiOut = s.spiOut := by
  cases l <;> simp only [State.edge] <;> (try split) <;> simp
@[simp] theorem State.edge_sched (l : BusLine) : (s.edge l).sched = s.sched := by
  cases l <;> simp only [State.edge] <;> (try split) <;> simp
@[simp] theorem State.edge_inputs (l : BusLine) : (s.edge l).inputs = s.inputs := by
  cases l <;> simp only [State.edge] <;> (try split) <;> simp

@[simp] theorem State.edgeIfChanged_cfg (l : BusLine) (old : Bool) : (s.edgeIfChanged l old).cfg = s.cfg := by
  unfold State.edgeIfChanged; split <;> simp
@[simp] theorem State.edgeIfChanged_progs (l : BusLine) (old : Bool) : (s.edgeIfChanged l old).progs = s.progs := by
  unfold State.edgeIfChanged; split <;> simp
@[simp] theorem State.edgeIfChanged_timeout (l : BusLine) (old : Bool) : (s.edgeIfChanged l old).timeout = s.timeout := by
  unfold State.edgeIfChanged; split <;> simp
@[simp] theorem State.edgeIfChanged_out (l : BusLine) (old : Bool) : (s.edgeIfChanged l old).out = s.out := by
  unfold State.edgeIfChanged; split <;> simp
@[simp] theorem State.edgeIfChanged_spi (l : BusLine) (old : Bool) : (s.edgeIfChanged l old).spi = s.spi := by
  unfold State.edgeIfChanged; split <;> simp
@[simp] theorem State.edgeIfChanged_par (l : BusLine) (old : Bool) : (s.edgeIfChanged l old).par = s.par := by
  unfold State.edgeIfChanged; split <;> simp
@[simp] theorem State.edgeIfChanged_mem (l : BusLine) (old : Bool) : (s.edgeIfChanged l old).mem = s.mem := by
  unfold State.edgeIfChanged; split <;> simp
@[simp] theorem State.edgeIfChanged_admitted (l : BusLine) (old : Bool) : (s.edgeIfChanged l old).admitted = s.admitted := by
  unfold State.edgeIfChanged; split <;> simp
@[simp] theorem State.edgeIfChanged_env (l : BusLine) (old : Bool) : (s.edgeIfChanged l old).env = s.env := by
  unfold State.edgeIfChanged; split <;> simp
@[simp] theorem State.edgeIfChanged_run (l : BusLine) (old : Bool) : (s.edgeIfChanged l old).run = s.run := by
  unfold State.edgeIfChanged; split <;> simp
@[simp] theorem State.edgeIfChanged_stack (l : BusLine) (old : Bool) : (s.edgeIfChanged l old).stack = s.stack := by
  unfold State.edgeIfChanged; split <;> simp
@[simp] theorem State.edgeIfChanged_spiOut (l : BusLine) (old : Bool) : (s.edgeIfChanged l old).spiOut = s.spiOut := by
  unfold State.edgeIfChanged; split <;> simp
@[simp] theorem State.edgeIfChanged_sched (l : BusLine) (old : Bool) : (s.edgeIfChanged l old).sched = s.sched := by
  unfold State.edgeIfChanged; split <;> simp
@[simp] theorem State.edgeIfChanged_inputs (l : BusLine) (old : Bool) : (s.edgeIfChanged l old).inputs = s.inputs := by
  unfold State.edgeIfChanged; split <;> simp

@[simp] theorem State.driveLine_cfg (l : BusLine) (v : Bool) : (s.driveLine l v).cfg = s.cfg := by
  simp [State.driveLine]
@[simp] theorem State.driveLine_progs (l : BusLine) (v : Bool) : (s.driveLine l v).progs = s.progs := by
  simp [State.driveLine]
@[simp] theorem State.driveLine_timeout (l : BusLine) (v : Bool) : (s.driveLine l v).timeout = s.timeout := by
  simp [State.driveLine]
@[simp] theorem State.driveLine_spi (l : BusLine) (v : Bool) : (s.driveLine l v).spi = s.spi := by
  simp [State.driveLine]
@[simp] theorem State.driveLine_par (l : BusLine) (v : Bool) : (s.driveLine l v).par = s.par := by
  simp [State.driveLine]
@[simp] theorem State.driveLine_mem (l : BusLine) (v : Bool) : (s.driveLine l v).mem = s.mem := by
  simp [State.driveLine]
@[simp] theorem State.driveLine_admitted (l : BusLine) (v : Bool) : (s.driveLine l v).admitted = s.admitted := by
  simp [State.driveLine]
@[simp] theorem State.driveLine_env (l : BusLine) (v : Bool) : (s.driveLine l v).env = s.env := by
  simp [State.driveLine]
@[simp] theorem State.driveLine_run (l : BusLine) (v : Bool) : (s.driveLine l v).run = s.run := by
  simp [State.driveLine]
@[simp] theorem State.driveLine_stack (l : BusLine) (v : Bool) : (s.driveLine l v).stack = s.stack := by
  simp [State.driveLine]
@[simp] theorem State.driveLine_spiOut (l : BusLine) (v : Bool) : (s.driveLine l v).spiOut = s.spiOut := by
  simp [State.driveLine]
@[simp] theorem State.driveLine_sched (l : BusLine) (v : Bool) : (s.driveLine l v).sched = s.sched := by
  simp [State.driveLine]
@[simp] theorem State.driveLine_inputs (l : BusLine) (v : Bool) : (s.driveLine l v).inputs = s.inputs := by
  simp [State.driveLine]

@[simp] theorem State.driveLine_out (l : BusLine) (v : Bool) : (s.driveLine l v).out = withLineBit s.out l v := by
  simp [State.driveLine]

@[simp] theorem State.setExt_cfg (levels : Lines) : (s.setExt levels).cfg = s.cfg := by
  simp [State.setExt]
@[simp] theorem State.setExt_progs (levels : Lines) : (s.setExt levels).progs = s.progs := by
  simp [State.setExt]
@[simp] theorem State.setExt_timeout (levels : Lines) : (s.setExt levels).timeout = s.timeout := by
  simp [State.setExt]
@[simp] theorem State.setExt_out (levels : Lines) : (s.setExt levels).out = s.out := by
  simp [State.setExt]
@[simp] theorem State.setExt_spi (levels : Lines) : (s.setExt levels).spi = s.spi := by
  simp [State.setExt]
@[simp] theorem State.setExt_par (levels : Lines) : (s.setExt levels).par = s.par := by
  simp [State.setExt]
@[simp] theorem State.setExt_mem (levels : Lines) : (s.setExt levels).mem = s.mem := by
  simp [State.setExt]
@[simp] theorem State.setExt_admitted (levels : Lines) : (s.setExt levels).admitted = s.admitted := by
  simp [State.setExt]
@[simp] theorem State.setExt_run (levels : Lines) : (s.setExt levels).run = s.run := by
  simp [State.setExt]
@[simp] theorem State.setExt_stack (levels : Lines) : (s.setExt levels).stack = s.stack := by
  simp [State.setExt]
@[simp] theorem State.setExt_spiOut (levels : Lines) : (s.setExt levels).spiOut = s.spiOut := by
  simp [State.setExt]
@[simp] theorem State.setExt_sched (levels : Lines) : (s.setExt levels).sched = s.sched := by
  simp [State.setExt]
@[simp] theorem State.setExt_inputs (levels : Lines) : (s.setExt levels).inputs = s.inputs := by
  simp [State.setExt]

@[simp] theorem State.setExt_env (levels : Lines) : (s.setExt levels).env = { s.env with ext := levels } := by
  simp [State.setExt]

@[simp] theorem State.hsEdge_cfg : (s.hsEdge).cfg = s.cfg := by
  unfold State.hsEdge; split <;> (try split) <;> simp
@[simp] theorem State.hsEdge_progs : (s.hsEdge).progs = s.progs := by
  unfold State.hsEdge; split <;> (try split) <;> simp
@[simp] theorem State.hsEdge_timeout : (s.hsEdge).timeout = s.timeout := by
  unfold State.hsEdge; split <;> (try split) <;> simp
@[simp] theorem State.hsEdge_out : (s.hsEdge).out = s.out := by
  unfold State.hsEdge; split <;> (try split) <;> simp
@[simp] theorem State.hsEdge_spi : (s.hsEdge).spi = s.spi := by
  unfold State.hsEdge; split <;> (try split) <;> simp
@[simp] theorem State.hsEdge_mem : (s.hsEdge).mem = s.mem := by
  unfold State.hsEdge; split <;> (try split) <;> simp
@[simp] theorem State.hsEdge_admitted : (s.hsEdge).admitted = s.admitted := by
  unfold State.hsEdge; split <;> (try split) <;> simp
@[simp] theorem State.hsEdge_env : (s.hsEdge).env = s.env := by
  unfold State.hsEdge; split <;> (try split) <;> simp
@[simp] theorem State.hsEdge_run : (s.hsEdge).run = s.run := by
  unfold State.hsEdge; split <;> (try split) <;> simp
@[simp] theorem State.hsEdge_stack : (s.hsEdge).stack = s.stack := by
  unfold State.hsEdge; split <;> (try split) <;> simp
@[simp] theorem State.hsEdge_spiOut : (s.hsEdge).spiOut = s.spiOut := by
  unfold State.hsEdge; split <;> (try split) <;> simp
@[simp] theorem State.hsEdge_sched : (s.hsEdge).sched = s.sched := by
  unfold State.hsEdge; split <;> (try split) <;> simp
@[simp] theorem State.hsEdge_inputs : (s.hsEdge).inputs = s.inputs := by
  unfold State.hsEdge; split <;> (try split) <;> simp

@[simp] theorem State.setHsIn_cfg (level : Bool) : (s.setHsIn level).cfg = s.cfg := by
  unfold State.setHsIn; split <;> simp
@[simp] theorem State.setHsIn_progs (level : Bool) : (s.setHsIn level).progs = s.progs := by
  unfold State.setHsIn; split <;> simp
@[simp] theorem State.setHsIn_timeout (level : Bool) : (s.setHsIn level).timeout = s.timeout := by
  unfold State.setHsIn; split <;> simp
@[simp] theorem State.setHsIn_out (level : Bool) : (s.setHsIn level).out = s.out := by
  unfold State.setHsIn; split <;> simp
@[simp] theorem State.setHsIn_spi (level : Bool) : (s.setHsIn level).spi = s.spi := by
  unfold State.setHsIn; split <;> simp
@[simp] theorem State.setHsIn_mem (level : Bool) : (s.setHsIn level).mem = s.mem := by
  unfold State.setHsIn; split <;> simp
@[simp] theorem State.setHsIn_admitted (level : Bool) : (s.setHsIn level).admitted = s.admitted := by
  unfold State.setHsIn; split <;> simp
@[simp] theorem State.setHsIn_run (level : Bool) : (s.setHsIn level).run = s.run := by
  unfold State.setHsIn; split <;> simp
@[simp] theorem State.setHsIn_stack (level : Bool) : (s.setHsIn level).stack = s.stack := by
  unfold State.setHsIn; split <;> simp
@[simp] theorem State.setHsIn_spiOut (level : Bool) : (s.setHsIn level).spiOut = s.spiOut := by
  unfold State.setHsIn; split <;> simp
@[simp] theorem State.setHsIn_sched (level : Bool) : (s.setHsIn level).sched = s.sched := by
  unfold State.setHsIn; split <;> simp
@[simp] theorem State.setHsIn_inputs (level : Bool) : (s.setHsIn level).inputs = s.inputs := by
  unfold State.setHsIn; split <;> simp

@[simp] theorem State.armAtn_cfg (enable : Bool) : (s.armAtn enable).cfg = s.cfg := by
  unfold State.armAtn; split <;> rfl
@[simp] theorem State.armAtn_progs (enable : Bool) : (s.armAtn enable).progs = s.progs := by
  unfold State.armAtn; split <;> rfl
@[simp] theorem State.armAtn_timeout (enable : Bool) : (s.armAtn enable).timeout = s.timeout := by
  unfold State.armAtn; split <;> rfl
@[simp] theorem State.armAtn_out (enable : Bool) : (s.armAtn enable).out = s.out := by
  unfold State.armAtn; split <;> rfl
@[simp] theorem State.armAtn_spi (enable : Bool) : (s.armAtn enable).spi = s.spi := by
  unfold State.armAtn; split <;> rfl
@[simp] theorem State.armAtn_par (enable : Bool) : (s.armAtn enable).par = s.par := by
  unfold State.armAtn; split <;> rfl
@[simp] theorem State.armAtn_mem (enable : Bool) : (s.armAtn enable).mem = s.mem := by
  unfold State.armAtn; split <;> rfl
@[simp] theorem State.armAtn_admitted (enable : Bool) : (s.armAtn enable).admitted = s.admitted := by
  unfold State.armAtn; split <;> rfl
@[simp] theorem State.armAtn_env (enable : Bool) : (s.armAtn enable).env = s.env := by
  unfold State.armAtn; split <;> rfl
@[simp] theorem State.armAtn_run (enable : Bool) : (s.armAtn enable).run = s.run := by
  unfold State.armAtn; split <;> rfl
@[simp] theorem State.armAtn_stack (enable : Bool) : (s.armAtn enable).stack = s.stack := by
  unfold State.armAtn; split <;> rfl
@[simp] theorem State.armAtn_spiOut (enable : Bool) : (s.armAtn enable).spiOut = s.spiOut := by
  unfold State.armAtn; split <;> rfl
@[simp] theorem State.armAtn_sched (enable : Bool) : (s.armAtn enable).sched = s.sched := by
  unfold State.armAtn; split <;> rfl

@[simp] theorem State.armClock_cfg (enable : Bool) : (s.armClock enable).cfg = s.cfg := by
  unfold State.armClock; split <;> rfl
@[simp] theorem State.armClock_progs (enable : Bool) : (s.armClock enable).progs = s.progs := by
  unfold State.armClock; split <;> rfl
@[simp] theorem State.armClock_timeout (enable : Bool) : (s.armClock enable).timeout = s.timeout := by
  unfold State.armClock; split <;> rfl
@[simp] theorem State.armClock_out (enable : Bool) : (s.armClock enable).out = s.out := by
  unfold State.armClock; split <;> rfl
@[simp] theorem State.armClock_spi (enable : Bool) : (s.armClock enable).spi = s.spi := by
  unfold State.armClock; split <;> rfl
@[simp] theorem State.armClock_par (enable : Bool) : (s.armClock enable).par = s.par := by
  unfold State.armClock; split <;> rfl
@[simp] theorem State.armClock_mem (enable : Bool) : (s.armClock enable).mem = s.mem := by
  unfold State.armClock; split <;> rfl
@[simp] theorem State.armClock_admitted (enable : Bool) : (s.armClock enable).admitted = s.admitted := by
  unfold State.armClock; split <;> rfl
@[simp] theorem State.armClock_env (enable : Bool) : (s.armClock enable).env = s.env := by
  unfold State.armClock; split <;> rfl
@[simp] theorem State.armClock_run (enable : Bool) : (s.armClock enable).run = s.run := by
  unfold State.armClock; split <;> rfl
@[simp] theorem State.armClock_stack (enable : Bool) : (s.armClock enable).stack = s.stack := by
  unfold State.armClock; split <;> rfl
@[simp] theorem State.armClock_spiOut (enable : Bool) : (s.armClock enable).spiOut = s.spiOut := by
  unfold State.armClock; split <;> rfl
@[simp] theorem State.armClock_sched (enable : Bool) : (s.armClock enable).sched = s.sched := by
  unfold State.armClock; split <;> rfl

@[simp] theorem Block.markBusy_cfg (k : Block) (v : Bool) : (k.markBusy v s).cfg = s.cfg := by
  unfold Block.markBusy; split <;> rfl
@[simp] theorem Block.markBusy_progs (k : Block) (v : Bool) : (k.markBusy v s).progs = s.progs := by
  unfold Block.markBusy; split <;> rfl
@[simp] theorem Block.markBusy_timeout (k : Block) (v : Bool) : (k.markBusy v s).timeout = s.timeout := by
  unfold Block.markBusy; split <;> rfl
@[simp] theorem Block.markBusy_out (k : Block) (v : Bool) : (k.markBusy v s).out = s.out := by
  unfold Block.markBusy; split <;> rfl
@[simp] theorem Block.markBusy_irq (k : Block) (v : Bool) : (k.markBusy v s).irq = s.irq := by
  unfold Block.markBusy; split <;> rfl
@[simp] theorem Block.markBusy_par (k : Block) (v : Bool) : (k.markBusy v s).par = s.par := by
  unfold Block.markBusy; split <;> rfl
@[simp] theorem Block.markBusy_mem (k : Block) (v : Bool) : (k.markBusy v s).mem = s.mem := by
  unfold Block.markBusy; split <;> rfl
@[simp] theorem Block.markBusy_admitted (k : Block) (v : Bool) : (k.markBusy v s).admitted = s.admitted := by
  unfold Block.markBusy; split <;> rfl
@[simp] theorem Block.markBusy_env (k : Block) (v : Bool) : (k.markBusy v s).env = s.env := by
  unfold Block.markBusy; split <;> rfl
@[simp] theorem Block.markBusy_run (k : Block) (v : Bool) : (k.markBusy v s).run = s.run := by
  unfold Block.markBusy; split <;> rfl
@[simp] theorem Block.markBusy_stack (k : Block) (v : Bool) : (k.markBusy v s).stack = s.stack := by
  unfold Block.markBusy; split <;> rfl
@[simp] theorem Block.markBusy_spiOut (k : Block) (v : Bool) : (k.markBusy v s).spiOut = s.spiOut := by
  unfold Block.markBusy; split <;> rfl
@[simp] theorem Block.markBusy_sched (k : Block) (v : Bool) : (k.markBusy v s).sched = s.sched := by
  unfold Block.markBusy; split <;> rfl
@[simp] theorem Block.markBusy_inputs (k : Block) (v : Bool) : (k.markBusy v s).inputs = s.inputs := by
  unfold Block.markBusy; split <;> rfl

@[simp] theorem Block.access_cfg (k : Block) (addr : Nat) : (k.access addr s).cfg = s.cfg := by
  cases k <;> rfl
@[simp] theorem Block.access_progs (k : Block) (addr : Nat) : (k.access addr s).progs = s.progs := by
  cases k <;> rfl
@[simp] theorem Block.access_timeout (k : Block) (addr : Nat) : (k.access addr s).timeout = s.timeout := by
  cases k <;> rfl
@[simp] theorem Block.access_out (k : Block) (addr : Nat) : (k.access addr s).out = s.out := by
  cases k <;> rfl
@[simp] theorem Block.access_irq (k : Block) (addr : Nat) : (k.access addr s).irq = s.irq := by
  cases k <;> rfl
@[simp] theorem Block.access_spi (k : Block) (addr : Nat) : (k.access addr s).spi = s.spi := by
  cases k <;> rfl
@[simp] theorem Block.access_par (k : Block) (addr : Nat) : (k.access addr s).par = s.par := by
  cases k <;> rfl
@[simp] theorem Block.access_admitted (k : Block) (addr : Nat) : (k.access addr s).admitted = s.admitted := by
  cases k <;> rfl
@[simp] theorem Block.access_env (k : Block) (addr : Nat) : (k.access addr s).env = s.env := by
  cases k <;> rfl
@[simp] theorem Block.access_run (k : Block) (addr : Nat) : (k.access addr s).run = s.run := by
  cases k <;> rfl
@[simp] theorem Block.access_stack (k : Block) (addr : Nat) : (k.access addr s).stack = s.stack := by
  cases k <;> rfl
@[simp] theorem Block.access_sched (k : Block) (addr : Nat) : (k.access addr s).sched = s.sched := by
  cases k <;> rfl

@[simp] theorem State.deliver_cfg (src : Source) : (s.deliver src).cfg = s.cfg := by
  cases src <;> rfl
@[simp] theorem State.deliver_progs (src : Source) : (s.deliver src).progs = s.progs := by
  cases src <;> rfl
@[simp] theorem State.deliver_timeout (src : Source) : (s.deliver src).timeout = s.timeout := by
  cases src <;> rfl
@[simp] theorem State.deliver_out (src : Source) : (s.deliver src).out = s.out := by
  cases src <;> rfl
@[simp] theorem State.deliver_spi (src : Source) : (s.deliver src).spi = s.spi := by
  cases src <;> rfl
@[simp] theorem State.deliver_par (src : Source) : (s.deliver src).par = s.par := by
  cases src <;> rfl
@[simp] theorem State.deliver_mem (src : Source) : (s.deliver src).mem = s.mem := by
  cases src <;> rfl
@[simp] theorem State.deliver_admitted (src : Source) : (s.deliver src).admitted = s.admitted := by
  cases src <;> rfl
@[simp] theorem State.deliver_env (src : Source) : (s.deliver src).env = s.env := by
  cases src <;> rfl
@[simp] theorem State.deliver_spiOut (src : Source) : (s.deliver src).spiOut = s.spiOut := by
  cases src <;> rfl
@[simp] theorem State.deliver_sched (src : Source) : (s.deliver src).sched = s.sched := by
  cases src <;> rfl
@[simp] theorem State.deliver_inputs (src : Source) : (s.deliver src).inputs = s.inputs := by
  cases src <;> rfl

@[simp] theorem State.deliver_run (src : Source) :
    (s.deliver src).run = { owner := .handler src, pc := 0, res := 0#32, active := none } := rfl

@[simp] theorem State.deliver_stack (src : Source) : (s.deliver src).stack = s.run :: s.stack := rfl

@[simp] theorem State.deliver_irq (src : Source) : (s.deliver src).irq = (s.setPending src false).irq := rfl

@[simp] theorem State.endContext_cfg : (s.endContext).cfg = s.cfg := by
  unfold State.endContext; split <;> rfl
@[simp] theorem State.endContext_progs : (s.endContext).progs = s.progs := by
  unfold State.endContext; split <;> rfl
@[simp] theorem State.endContext_timeout : (s.endContext).timeout = s.timeout := by
  unfold State.endContext; split <;> rfl
@[simp] theorem State.endContext_out : (s.endContext).out = s.out := by
  unfold State.endContext; split <;> rfl
@[simp] theorem State.endContext_irq : (s.endContext).irq = s.irq := by
  unfold State.endContext; split <;> rfl
@[simp] theorem State.endContext_spi : (s.endContext).spi = s.spi := by
  unfold State.endContext; split <;> rfl
@[simp] theorem State.endContext_par : (s.endContext).par = s.par := by
  unfold State.endContext; split <;> rfl
@[simp] theorem State.endContext_mem : (s.endContext).mem = s.mem := by
  unfold State.endContext; split <;> rfl
@[simp] theorem State.endContext_admitted : (s.endContext).admitted = s.admitted := by
  unfold State.endContext; split <;> rfl
@[simp] theorem State.endContext_env : (s.endContext).env = s.env := by
  unfold State.endContext; split <;> rfl
@[simp] theorem State.endContext_spiOut : (s.endContext).spiOut = s.spiOut := by
  unfold State.endContext; split <;> rfl
@[simp] theorem State.endContext_sched : (s.endContext).sched = s.sched := by
  unfold State.endContext; split <;> rfl
@[simp] theorem State.endContext_inputs : (s.endContext).inputs = s.inputs := by
  unfold State.endContext; split <;> rfl

@[simp] theorem State.callerStore_cfg (addr : Nat) (v : Byte) : (s.callerStore addr v).cfg = s.cfg := by
  unfold State.callerStore; split <;> rfl
@[simp] theorem State.callerStore_progs (addr : Nat) (v : Byte) : (s.callerStore addr v).progs = s.progs := by
  unfold State.callerStore; split <;> rfl
@[simp] theorem State.callerStore_timeout (addr : Nat) (v : Byte) : (s.callerStore addr v).timeout = s.timeout := by
  unfold State.callerStore; split <;> rfl
@[simp] theorem State.callerStore_out (addr : Nat) (v : Byte) : (s.callerStore addr v).out = s.out := by
  unfold State.callerStore; split <;> rfl
@[simp] theorem State.callerStore_irq (addr : Nat) (v : Byte) : (s.callerStore addr v).irq = s.irq := by
  unfold State.callerStore; split <;> rfl
@[simp] theorem State.callerStore_spi (addr : Nat) (v : Byte) : (s.callerStore addr v).spi = s.spi := by
  unfold State.callerStore; split <;> rfl
@[simp] theorem State.callerStore_par (addr : Nat) (v : Byte) : (s.callerStore addr v).par = s.par := by
  unfold State.callerStore; split <;> rfl
@[simp] theorem State.callerStore_admitted (addr : Nat) (v : Byte) : (s.callerStore addr v).admitted = s.admitted := by
  unfold State.callerStore; split <;> rfl
@[simp] theorem State.callerStore_env (addr : Nat) (v : Byte) : (s.callerStore addr v).env = s.env := by
  unfold State.callerStore; split <;> rfl
@[simp] theorem State.callerStore_run (addr : Nat) (v : Byte) : (s.callerStore addr v).run = s.run := by
  unfold State.callerStore; split <;> rfl
@[simp] theorem State.callerStore_stack (addr : Nat) (v : Byte) : (s.callerStore addr v).stack = s.stack := by
  unfold State.callerStore; split <;> rfl
@[simp] theorem State.callerStore_spiOut (addr : Nat) (v : Byte) : (s.callerStore addr v).spiOut = s.spiOut := by
  unfold State.callerStore; split <;> rfl
@[simp] theorem State.callerStore_sched (addr : Nat) (v : Byte) : (s.callerStore addr v).sched = s.sched := by
  unfold State.callerStore; split <;> rfl
@[simp] theorem State.callerStore_inputs (addr : Nat) (v : Byte) : (s.callerStore addr v).inputs = s.inputs := by
  unfold State.callerStore; split <;> rfl

@[simp] theorem State.tryDeliver_cfg (src : Source) : (s.tryDeliver src).cfg = s.cfg := by
  unfold State.tryDeliver; split <;> simp
@[simp] theorem State.tryDeliver_progs (src : Source) : (s.tryDeliver src).progs = s.progs := by
  unfold State.tryDeliver; split <;> simp
@[simp] theorem State.tryDeliver_timeout (src : Source) : (s.tryDeliver src).timeout = s.timeout := by
  unfold State.tryDeliver; split <;> simp
@[simp] theorem State.tryDeliver_out (src : Source) : (s.tryDeliver src).out = s.out := by
  unfold State.tryDeliver; split <;> simp
@[simp] theorem State.tryDeliver_spi (src : Source) : (s.tryDeliver src).spi = s.spi := by
  unfold State.tryDeliver; split <;> simp
@[simp] theorem State.tryDeliver_par (src : Source) : (s.tryDeliver src).par = s.par := by
  unfold State.tryDeliver; split <;> simp
@[simp] theorem State.tryDeliver_mem (src : Source) : (s.tryDeliver src).mem = s.mem := by
  unfold State.tryDeliver; split <;> simp
@[simp] theorem State.tryDeliver_admitted (src : Source) : (s.tryDeliver src).admitted = s.admitted := by
  unfold State.tryDeliver; split <;> simp
@[simp] theorem State.tryDeliver_env (src : Source) : (s.tryDeliver src).env = s.env := by
  unfold State.tryDeliver; split <;> simp
@[simp] theorem State.tryDeliver_spiOut (src : Source) : (s.tryDeliver src).spiOut = s.spiOut := by
  unfold State.tryDeliver; split <;> simp
@[simp] theorem State.tryDeliver_sched (src : Source) : (s.tryDeliver src).sched = s.sched := by
  unfold State.tryDeliver; split <;> simp
@[simp] theorem State.tryDeliver_inputs (src : Source) : (s.tryDeliver src).inputs = s.inputs := by
  unfold State.tryDeliver; split <;> simp

/-- The bits of a line after a write (spec/41_bus_lines.md R140). -/
@[simp] theorem lineBit_withLineBit (l : Lines) (a b : BusLine) (v : Bool) :
    lineBit (withLineBit l a v) b = if a = b then v else lineBit l b := by
  cases a <;> cases b <;> rfl

/-- Pending bits after a write of one of them. -/
@[simp] theorem State.setPending_pending (a b : Source) (v : Bool) :
    (s.setPending a v).pending b = if a = b then v else s.pending b := by
  cases a <;> cases b <;> rfl

/-- A write of a pending bit leaves the enables. -/
@[simp] theorem State.setPending_enabled (a b : Source) (v : Bool) :
    (s.setPending a v).enabled b = s.enabled b := by
  cases a <;> cases b <;> rfl

/-- Armed sources and pending bits after an edge (spec/42_edge_irq.md R152). -/
theorem State.edge_irq (l : BusLine) :
    (s.edge l).irq =
      match l with
      | .atn => { s.irq with pendAtn := s.irq.pendAtn || s.irq.enAtn }
      | .clock => { s.irq with pendClock := s.irq.pendClock || s.irq.enClock }
      | .data => s.irq
      | .srq => s.irq := by
  rcases h : s.irq with ⟨a, b, c, d, e⟩
  cases l <;> simp only [State.edge, h] <;> (try split) <;> simp_all [State.setPending]

/-- Wires depend on `OUT` and `EXT` alone (spec/10_state.md R26). -/
theorem State.wire_congr {s t : State} (h : t.out = s.out) (h' : t.env = s.env) (l : BusLine) : t.wire l = s.wire l := by
  simp [State.wire, h, h']

/-- The drive of the parallel port depends on its block state alone (spec/45_parallel.md R222). -/
theorem State.parDrive_congr {s t : State} (h : t.par = s.par) (line : ParLine) : t.parDrive line = s.parDrive line := by
  cases line <;> simp [State.parDrive, h]

/-- A released line has the level the other devices give it (spec/45_parallel.md R222). -/
theorem State.parWire_released {line : ParLine} (h : s.parDrive line = true) (others : Bool) :
    s.parWire line others = others := by
  simp [State.parWire, h]

/-- A line the block pulls is low (spec/45_parallel.md R222). -/
theorem State.parWire_pulled {line : ParLine} (h : s.parDrive line = false) (others : Bool) :
    s.parWire line others = false := by
  simp [State.parWire, h]

/-- An unchanged wire makes no edge (spec/42_edge_irq.md R151). -/
theorem State.edgeIfChanged_same (l : BusLine) : s.edgeIfChanged l (s.wire l) = s := by
  simp [State.edgeIfChanged]

/-- Pending bits after an edge check (spec/42_edge_irq.md R152). -/
theorem State.edgeIfChanged_irq (l : BusLine) (old : Bool) :
    (s.edgeIfChanged l old).irq = if s.wire l = old then s.irq else (s.edge l).irq := by
  unfold State.edgeIfChanged
  split <;> rfl

end Sys2Proof.Machine
end

