-- ==== Sys2Proof/Laws/Memory.lean ====
section
/-!
SUPPORT. The laws of `MEM`: every memory operation keeps the canonical form, a read after a write to the same address
gives the byte written, and a write leaves every other address alone.
-/

namespace Sys2Proof.Machine

/-- A canonical memory whose addresses exceed a bound has canonical form from any lower bound. -/
theorem Memory.wfFrom_mono {lo lo' : Nat} (h : lo' ≤ lo) {m : Memory} (hm : Memory.wfFrom lo m = true) :
    Memory.wfFrom lo' m = true := by
  cases m with
  | nil => rfl
  | cons c m =>
    simp only [Memory.wfFrom, Bool.and_eq_true, decide_eq_true_eq] at hm ⊢
    exact ⟨⟨h.trans hm.1.1, hm.1.2⟩, hm.2⟩

/-- An address below every listed one reads as the unlisted byte. -/
theorem Memory.read_below {lo a : Nat} {m : Memory} (hm : Memory.wfFrom lo m = true) (h : a < lo) :
    Memory.read m a = Memory.unlisted := by
  induction m generalizing lo with
  | nil => rfl
  | cons c m ih =>
    simp only [Memory.wfFrom, Bool.and_eq_true, decide_eq_true_eq] at hm
    have hne : a ≠ c.1 := by omega
    simp only [Memory.read, hne, if_false]
    exact ih hm.2 (by omega)

/-- A write keeps the canonical form above a bound that its address respects. -/
theorem Memory.wfFrom_write {lo a : Nat} {m : Memory} (hm : Memory.wfFrom lo m = true) (h : lo ≤ a) (v : Byte) :
    Memory.wfFrom lo (Memory.write m a v) = true := by
  induction m generalizing lo with
  | nil =>
    by_cases hv : v = Memory.unlisted <;> simp [Memory.write, Memory.wfFrom, hv, h]
  | cons c m ih =>
    obtain ⟨b, w⟩ := c
    simp only [Memory.wfFrom, Bool.and_eq_true, decide_eq_true_eq] at hm
    obtain ⟨⟨hlo, hw⟩, hrest⟩ := hm
    rcases Nat.lt_trichotomy a b with hab | hab | hab
    · by_cases hv : v = Memory.unlisted
      · simp [Memory.write, Memory.wfFrom, hab, hv, hlo, hw, hrest]
      · simp [Memory.write, Memory.wfFrom, hab, hv, h, hw, hrest, Nat.succ_le_of_lt hab]
    · subst hab
      by_cases hv : v = Memory.unlisted
      · simp [Memory.write, hv, Memory.wfFrom_mono (Nat.le_succ_of_le hlo) hrest]
      · simp [Memory.write, Memory.wfFrom, hv, h, hrest]
    · have h1 : ¬a < b := by omega
      have h2 : a ≠ b := by omega
      simp [Memory.write, Memory.wfFrom, h1, h2, hlo, hw, ih hrest (by omega)]

/-- A write keeps the canonical form. -/
theorem Memory.wf_write {m : Memory} (hm : m.wf = true) (a : Nat) (v : Byte) : (m.write a v).wf = true :=
  Memory.wfFrom_write hm (Nat.zero_le a) v

/-- A write leaves every other address alone. -/
theorem Memory.read_write_other (m : Memory) {a b : Nat} (h : b ≠ a) (v : Byte) :
    (m.write a v).read b = m.read b := by
  induction m with
  | nil => by_cases hv : v = Memory.unlisted <;> simp [Memory.write, Memory.read, hv, h]
  | cons c m ih =>
    obtain ⟨k, w⟩ := c
    rcases Nat.lt_trichotomy a k with hak | hak | hak
    · by_cases hv : v = Memory.unlisted <;> simp [Memory.write, Memory.read, hak, hv, h]
    · subst hak
      by_cases hv : v = Memory.unlisted <;> simp [Memory.write, Memory.read, hv, h]
    · have h1 : ¬a < k := by omega
      have h2 : a ≠ k := by omega
      simp [Memory.write, Memory.read, h1, h2, ih]

/-- A read after a write to the same address gives the byte written. -/
theorem Memory.read_write_same {lo : Nat} {m : Memory} (hm : Memory.wfFrom lo m = true) (a : Nat) (v : Byte) :
    (m.write a v).read a = v := by
  induction m generalizing lo with
  | nil => by_cases hv : v = Memory.unlisted <;> simp [Memory.write, Memory.read, hv]
  | cons c m ih =>
    obtain ⟨k, w⟩ := c
    simp only [Memory.wfFrom, Bool.and_eq_true, decide_eq_true_eq] at hm
    rcases Nat.lt_trichotomy a k with hak | hak | hak
    · by_cases hv : v = Memory.unlisted
      · have hne : a ≠ k := by omega
        simp [Memory.write, Memory.read, hak, hv, hne, Memory.read_below hm.2 (by omega : a < k + 1)]
      · simp [Memory.write, Memory.read, hak, hv]
    · subst hak
      by_cases hv : v = Memory.unlisted
      · simp [Memory.write, hv, Memory.read_below hm.2 (Nat.lt_succ_self a)]
      · simp [Memory.write, Memory.read, hv]
    · have h1 : ¬a < k := by omega
      have h2 : a ≠ k := by omega
      simp [Memory.write, Memory.read, h1, h2, ih hm.2]

/-- A write lists no address but its own and those listed before. -/
theorem Memory.mem_write {m : Memory} {a : Nat} {v : Byte} {c : Host.Cell} (h : c ∈ m.write a v) :
    c = (a, v) ∨ c ∈ m := by
  induction m with
  | nil =>
    by_cases hv : v = Memory.unlisted
    · simp [Memory.write, hv] at h
    · simp only [Memory.write, hv, if_false, List.mem_singleton] at h
      exact .inl h
  | cons e m ih =>
    obtain ⟨k, w⟩ := e
    rcases Nat.lt_trichotomy a k with hak | hak | hak
    · by_cases hv : v = Memory.unlisted
      · simp only [Memory.write, hak, hv, if_true] at h
        exact .inr h
      · simp only [Memory.write, hak, hv, if_true, if_false, List.mem_cons] at h ⊢
        exact h
    · subst hak
      by_cases hv : v = Memory.unlisted
      · simp only [Memory.write, hv, Nat.lt_irrefl, if_true, if_false] at h
        exact .inr (List.mem_cons_of_mem _ h)
      · simp only [Memory.write, hv, Nat.lt_irrefl, if_true, if_false, List.mem_cons] at h ⊢
        exact h.imp_right .inr
    · have h1 : ¬a < k := by omega
      have h2 : a ≠ k := by omega
      simp only [Memory.write, h1, h2, if_false, List.mem_cons] at h ⊢
      rcases h with h | h
      · exact .inr (.inl h)
      · exact (ih h).imp_right .inr

/-- The memory of `State.reset` has its canonical form. -/
theorem reset_mem_wf : State.reset.mem.wf = true := rfl

/-- The byte at an address after a store of another address (spec/20_memory.md R62). -/
theorem State.writeByte_readByte_other (s : State) {a b : Nat} (h : b ≠ a) (v : Byte) :
    (s.writeByte a v).readByte b = s.readByte b :=
  Memory.read_write_other s.mem h v

/-- The byte at an address after a store to it (spec/20_memory.md R62). -/
theorem State.writeByte_readByte_same {s : State} (h : s.mem.wf = true) (a : Nat) (v : Byte) :
    (s.writeByte a v).readByte a = v :=
  Memory.read_write_same h a v

/-- Equal memories give equal bytes. -/
theorem State.readByte_congr {s t : State} (h : t.mem = s.mem) (a : Nat) : t.readByte a = s.readByte a := by
  simp [State.readByte, h]

/-- Equal memories give equal byte lists. -/
theorem State.bytesAt_congr {s t : State} (h : t.mem = s.mem) (addr len : Nat) :
    t.bytesAt addr len = s.bytesAt addr len := by
  induction len generalizing addr with
  | zero => rfl
  | succ n ih => simp [State.bytesAt, State.readByte_congr h, ih]

/-- Admission depends on the launch alone (spec/20_memory.md R68). -/
theorem State.admits_congr {s t : State} (h : t.admitted = s.admitted) (h' : t.cfg = s.cfg) (a : Nat) :
    t.admits a = s.admits a := by
  simp [State.admits, h, h']

/-- An admitted address lies in `MEM` (spec/20_memory.md R60). -/
theorem State.lt_of_admits {s : State} {a : Nat} (h : s.admits a = true) : a < 2 ^ s.cfg.addrW := by
  simp only [State.admits, Bool.and_eq_true, decide_eq_true_eq] at h
  exact h.1

end Sys2Proof.Machine
end

