-- ==== Sys2Proof/Laws/PerInstr.lean ====
section
/-!
SUPPORT. The family `RowMatch`: the command word of every command matches its row of the opcode map
(spec/30_encoding.md R94), one lemma for each constructor.
-/

namespace Sys2Proof.Laws.RowMatch

/-- The command word of a command has its row's opcode, and no reserved bit set (spec/30_encoding.md R94, R98). -/
def Statement (i : Instr) : Prop :=
  opField (encode i).w0 = i.mnemonic.op ∧ (encode i).w0 &&& i.mnemonic.format.mask = i.mnemonic.matchWord

/-- A command word matches its row once its operand bits lie outside the row's mask. -/
theorem of_operandBits {i : Instr} (h : i.operandBits &&& i.mnemonic.format.mask = 0#32) : Statement i := by
  have hm : (encode i).w0 &&& i.mnemonic.format.mask = i.mnemonic.matchWord := by
    rw [encode_w0, BitVec.and_or_distrib_right, h, BitVec.or_zero, Mnemonic.matchWord_mask]
  refine ⟨?_, hm⟩
  have hop : (encode i).w0 &&& 0xFF#32 = i.mnemonic.matchWord &&& 0xFF#32 := by
    rw [← hm, BitVec.and_assoc, Format.mask_op]
  rw [← opField_low, hop, Mnemonic.opField_matchWord]

theorem startTimeout (usecs : BitVec 24) : Statement (.startTimeout usecs) :=
  of_operandBits (by ext k hk; interval_cases k <;> simp [Instr.operandBits, Instr.mnemonic, Mnemonic.format, Format.mask, placed])
theorem hasTimedOut : Statement .hasTimedOut := of_operandBits (by decide)
theorem delayUs (n : BitVec 24) : Statement (.delayUs n) :=
  of_operandBits (by ext k hk; interval_cases k <;> simp [Instr.operandBits, Instr.mnemonic, Mnemonic.format, Format.mask, placed])
theorem delayMs (n : BitVec 24) : Statement (.delayMs n) :=
  of_operandBits (by ext k hk; interval_cases k <;> simp [Instr.operandBits, Instr.mnemonic, Mnemonic.format, Format.mask, placed])
theorem iecBusRead : Statement .iecBusRead := of_operandBits (by decide)
theorem setAtn (v : Bool) : Statement (.setAtn v) := of_operandBits (by cases v <;> decide)
theorem setClock (v : Bool) : Statement (.setClock v) := of_operandBits (by cases v <;> decide)
theorem setData (v : Bool) : Statement (.setData v) := of_operandBits (by cases v <;> decide)
theorem setSrq (v : Bool) : Statement (.setSrq v) := of_operandBits (by cases v <;> decide)
theorem setAtnIrq (enable : Bool) : Statement (.setAtnIrq enable) := of_operandBits (by cases enable <;> decide)
theorem setClockIrq (enable : Bool) : Statement (.setClockIrq enable) := of_operandBits (by cases enable <;> decide)
theorem crc7Update (acc data : Byte) : Statement (.crc7Update acc data) :=
  of_operandBits (by ext k hk; interval_cases k <;> simp [Instr.operandBits, Instr.mnemonic, Mnemonic.format, Format.mask, placed])
theorem crc16Update (acc : BitVec 16) (data : Byte) : Statement (.crc16Update acc data) :=
  of_operandBits (by ext k hk; interval_cases k <;> simp [Instr.operandBits, Instr.mnemonic, Mnemonic.format, Format.mask, placed])
theorem crc7Block (acc : Byte) (addr len : Word) : Statement (.crc7Block acc addr len) :=
  of_operandBits (by ext k hk; interval_cases k <;> simp [Instr.operandBits, Instr.mnemonic, Mnemonic.format, Format.mask, placed])
theorem crc16Block (acc : BitVec 16) (addr len : Word) : Statement (.crc16Block acc addr len) :=
  of_operandBits (by ext k hk; interval_cases k <;> simp [Instr.operandBits, Instr.mnemonic, Mnemonic.format, Format.mask, placed])
theorem spiInit (speed : Speed) : Statement (.spiInit speed) := of_operandBits (by cases speed <;> decide)
theorem spiSelectDevice (dev : Selector) : Statement (.spiSelectDevice dev) := of_operandBits (by cases dev <;> decide)
theorem spiTxByte (data : Byte) : Statement (.spiTxByte data) :=
  of_operandBits (by ext k hk; interval_cases k <;> simp [Instr.operandBits, Instr.mnemonic, Mnemonic.format, Format.mask, placed])
theorem spiRxByte : Statement .spiRxByte := of_operandBits (by decide)
theorem spiTxBlock (addr len : Word) : Statement (.spiTxBlock addr len) := of_operandBits (BitVec.zero_and)
theorem spiRxBlock (addr len : Word) : Statement (.spiRxBlock addr len) := of_operandBits (BitVec.zero_and)
theorem spiSetSpeed (speed : Speed) : Statement (.spiSetSpeed speed) := of_operandBits (by cases speed <;> decide)
theorem parallelInit : Statement .parallelInit := of_operandBits (by decide)

end Sys2Proof.Laws.RowMatch
end

