-- ==== Sys2Proof/Laws/Ops.lean ====
section
/-!
SUPPORT. For each shared operation, once, everything it can do when it answers a next state: the guards of the
meanings, the steps of a block command, the step of a context, the moves of the interleaving and the machine's step.
-/

namespace Sys2Proof.Machine

/-- A guarded meaning answers a next state only in range (spec/30_encoding.md R99). -/
theorem inRange_next {i : Instr} {s t : State} {m : Result} :
    inRange i s m = .next t ↔ i.wf s.cfg = true ∧ m = .next t := by
  unfold inRange
  split <;> simp_all

/-- A delay answers a next state only on `WIDE32` (spec/30_encoding.md R99). -/
theorem onWide_next {i : Instr} {s t : State} {m : Result} :
    onWide i s m = .next t ↔ i.wf s.cfg = true ∧ m = .next t := by
  unfold onWide
  split <;> simp_all

/-- Arming answers a next state only on a wired line (spec/00_scope.md R12). -/
theorem whenWired_next {i : Instr} {s t : State} {m : Result} :
    whenWired i s m = .next t ↔ i.provided s.cfg = true ∧ m = .next t := by
  unfold whenWired
  split <;> simp_all

/-- `parallel_init` answers a next state only with the transport (spec/00_scope.md R12). -/
theorem whenParallel_next {i : Instr} {s t : State} {m : Result} :
    whenParallel i s m = .next t ↔ i.provided s.cfg = true ∧ m = .next t := by
  unfold whenParallel
  split <;> simp_all

/-- An SPI command answers a next state only when initialised and not busy (spec/44_spi.md R191, R192). -/
theorem spiReady_next {i : Instr} {s t : State} {m : Result} :
    spiReady i s m = .next t ↔ s.spi.spiOn = true ∧ s.spi.spiBusy = false ∧ m = .next t := by
  unfold spiReady
  split
  · simp_all
  · split <;> simp_all

/-- The step of a block command at a byte (spec/20_memory.md R62, R67). -/
theorem blockByte_next {k : Block} {addr left : Nat} {s t : State} (h : blockByte k addr left s = .next t) :
    (left = 0 ∧ t = s.complete k.result) ∨
    (s.admits addr = true ∧ left = 1 ∧
      t = (k.markBusy false (k.access addr s)).complete (k.afterByte addr s).result) ∨
    (s.admits addr = true ∧ ∃ rest, rest ≠ 0 ∧ left = rest + 1 ∧
      t = (k.access addr s).setActive (.block (k.afterByte addr s) (addr + 1) rest)) := by
  unfold blockByte at h
  split at h
  · exact .inl ⟨rfl, (Host.Outcome.next.inj h).symm⟩
  · rename_i rest
    split at h
    · rename_i ha
      split at h
      · rename_i hr
        exact .inr (.inl ⟨ha, by omega, (Host.Outcome.next.inj h).symm⟩)
      · rename_i hr
        exact .inr (.inr ⟨ha, rest, hr, rfl, (Host.Outcome.next.inj h).symm⟩)
    · cases h

/-- A block command never stops its context but at an unadmitted byte (spec/20_memory.md R62). -/
theorem blockByte_admitted {k : Block} {addr rest : Nat} {s : State} (h : s.admits addr = true) :
    blockByte k addr (rest + 1) s =
      if rest = 0 then .next ((k.markBusy false (k.access addr s)).complete (k.afterByte addr s).result)
      else .next ((k.access addr s).setActive (.block (k.afterByte addr s) (addr + 1) rest)) := by
  simp [blockByte, h]

/-- A block command with bytes left has no step at an unadmitted byte (spec/20_memory.md R62, spec/60_exceptions.md
R233). -/
theorem blockByte_unadmitted {k : Block} {addr left : Nat} {s : State} (hl : 0 < left) (h : s.admits addr = false) :
    blockByte k addr left s = .fault (.stuckUnadmitted addr) := by
  obtain ⟨n, rfl⟩ := Nat.exists_eq_succ_of_ne_zero hl.ne'
  simp [blockByte, h]

/-- Admission is the same after a block command's mark. -/
@[simp] theorem Block.markBusy_admits (k : Block) (v : Bool) (s : State) (a : Nat) :
    (k.markBusy v s).admits a = s.admits a :=
  State.admits_congr (by simp) (by simp) a

/-- The issue of a block command (spec/20_memory.md R63). -/
theorem startBlock_next {i : Instr} {k : Block} {addr len : Word} {s t : State}
    (h : startBlock i k addr len s = .next t) :
    (len = 0#32 ∧ t = s.complete k.result) ∨
    (len ≠ 0#32 ∧ addr.toNat + len.toNat ≤ 2 ^ s.cfg.addrW ∧ s.admits addr.toNat = true ∧
      blockByte k addr.toNat len.toNat (k.markBusy true s) = .next t) ∨
    (len ≠ 0#32 ∧ addr.toNat + len.toNat ≤ 2 ^ s.cfg.addrW ∧ s.admits addr.toNat = false ∧
      t = (k.markBusy true s).setActive (.block k addr.toNat len.toNat)) := by
  unfold startBlock at h
  split at h
  · exact .inl ⟨by assumption, (Host.Outcome.next.inj h).symm⟩
  · split at h
    · cases h
    · split at h
      · exact .inr (.inl ⟨by assumption, by omega, by assumption, h⟩)
      · exact .inr (.inr ⟨by assumption, by omega, by simp_all, (Host.Outcome.next.inj h).symm⟩)

/-- A block command over bytes within `MEM` whose byte 0 is admitted is issued with the step of that byte. -/
theorem startBlock_admitted {i : Instr} {k : Block} {addr len : Word} {s : State} (hl : len ≠ 0#32)
    (hw : addr.toNat + len.toNat ≤ 2 ^ s.cfg.addrW) (ha : s.admits addr.toNat = true) :
    startBlock i k addr len s = blockByte k addr.toNat len.toNat (k.markBusy true s) := by
  rw [startBlock, if_neg hl, if_neg (by omega), if_pos ha]

/-- A block command over bytes within `MEM` whose byte 0 is not admitted has started and stands at it
(spec/44_spi.md R203; log 18). -/
theorem startBlock_unadmitted {i : Instr} {k : Block} {addr len : Word} {s : State} (hl : len ≠ 0#32)
    (hw : addr.toNat + len.toNat ≤ 2 ^ s.cfg.addrW) (ha : s.admits addr.toNat = false) :
    startBlock i k addr len s = .next ((k.markBusy true s).setActive (.block k addr.toNat len.toNat)) := by
  rw [startBlock, if_neg hl, if_neg (by omega), if_neg (by simp [ha])]

/-- The issue of a block command never stops but on a wrap (spec/20_memory.md R63, spec/60_exceptions.md R234). -/
theorem startBlock_completes {i : Instr} {k : Block} {addr len : Word} {s : State}
    (h : addr.toNat + len.toNat ≤ 2 ^ s.cfg.addrW) : ∃ t, startBlock i k addr len s = .next t := by
  by_cases hl : len = 0#32
  · exact ⟨_, if_pos hl⟩
  · cases ha : s.admits addr.toNat with
    | false => exact ⟨_, startBlock_unadmitted hl h ha⟩
    | true =>
      have hpos : len.toNat ≠ 0 := fun h0 => hl (BitVec.eq_of_toNat_eq (by simpa using h0))
      obtain ⟨n, hn⟩ := Nat.exists_eq_succ_of_ne_zero hpos
      rw [startBlock_admitted hl h ha, hn, blockByte_admitted (by simpa using ha)]
      split <;> exact ⟨_, rfl⟩

/-- What the step of a block command at a byte leaves alone: all but memory, the busy bit, the SPI output, the inputs
and the running context's line, result and command in progress (spec/43_crc.md R172, spec/44_spi.md R203, R204). -/
theorem blockByte_frame {k : Block} {addr left : Nat} {s t : State} (h : blockByte k addr left s = .next t) :
    t.cfg = s.cfg ∧ t.progs = s.progs ∧ t.timeout = s.timeout ∧ t.out = s.out ∧ t.irq = s.irq ∧ t.par = s.par ∧
    t.admitted = s.admitted ∧ t.env = s.env ∧ t.stack = s.stack ∧ t.sched = s.sched ∧ t.run.owner = s.run.owner ∧
    t.spi.spiOn = s.spi.spiOn ∧ t.spi.spiSpeed = s.spi.spiSpeed ∧ t.spi.spiSel = s.spi.spiSel ∧
    (k.isSpi = false → t.spi = s.spi) ∧ (k ≠ .spiRx → t.mem = s.mem) := by
  rcases blockByte_next h with ⟨_, rfl⟩ | ⟨_, _, rfl⟩ | ⟨_, _, _, _, rfl⟩
  · simp
  · cases k <;> simp [Block.markBusy, Block.access, Block.isSpi]
  · cases k <;> simp [Block.access, Block.isSpi]

/-- What the issue of a block command leaves alone, as for the step at a byte. -/
theorem startBlock_frame {i : Instr} {k : Block} {addr len : Word} {s t : State}
    (h : startBlock i k addr len s = .next t) :
    t.cfg = s.cfg ∧ t.progs = s.progs ∧ t.timeout = s.timeout ∧ t.out = s.out ∧ t.irq = s.irq ∧ t.par = s.par ∧
    t.admitted = s.admitted ∧ t.env = s.env ∧ t.stack = s.stack ∧ t.sched = s.sched ∧ t.run.owner = s.run.owner ∧
    t.spi.spiOn = s.spi.spiOn ∧ t.spi.spiSpeed = s.spi.spiSpeed ∧ t.spi.spiSel = s.spi.spiSel ∧
    (k.isSpi = false → t.spi = s.spi) ∧ (k ≠ .spiRx → t.mem = s.mem) := by
  rcases startBlock_next h with ⟨_, rfl⟩ | ⟨_, _, _, h⟩ | ⟨_, _, _, rfl⟩
  · simp
  · have := blockByte_frame h
    cases k <;> simpa [Block.markBusy, Block.isSpi] using this
  · cases k <;> simp [Block.markBusy, Block.isSpi]

/-- What a block command holds keeps its kind. -/
@[simp] theorem Block.afterByte_isSpi (k : Block) (addr : Nat) (s : State) : (k.afterByte addr s).isSpi = k.isSpi := by
  cases k <;> rfl

/-- Bytes are the same after a block command's mark. -/
@[simp] theorem Block.markBusy_readByte (k : Block) (v : Bool) (s : State) (a : Nat) :
    (k.markBusy v s).readByte a = s.readByte a :=
  State.readByte_congr (by simp) a

/-- The SPI state after a block command's mark (spec/44_spi.md R203). -/
theorem Block.markBusy_spi (k : Block) (v : Bool) (s : State) :
    (k.markBusy v s).spi = if k.isSpi = true then { s.spi with spiBusy := v } else s.spi := by
  unfold Block.markBusy
  split <;> rfl

/-- The stack after the draws of a delay: no context but a delayed one changes, and a delay never grows
(spec/40_timeout.md R122). -/
theorem drawDelays_spec (cs : List Context) (draws : Nat) :
    List.Forall₂ (fun c c' => c' = c ∨ ∃ left left', c.active = some (.delay left) ∧ left' ≤ left ∧
      c' = { c with active := some (.delay left') }) cs (drawDelays cs draws).1 := by
  induction cs generalizing draws with
  | nil => exact .nil
  | cons c rest ih =>
    refine .cons ?_ (ih _)
    unfold Context.drawDelay
    split
    · rename_i left h
      exact .inr ⟨left, _, h, Nat.le_of_lt_succ (Nat.mod_lt _ (Nat.succ_pos left)), rfl⟩
    · exact .inl rfl
    · exact .inl rfl

/-- The step of a context (spec/60_exceptions.md R243). -/
theorem contextStep_next {s t : State} (h : contextStep s = .next t) :
    (∃ k addr left, s.run.active = some (.block k addr left) ∧ blockByte k addr left s = .next t) ∨
    (∃ left, s.run.active = some (.delay left) ∧ t = holdDelay left s) ∨
    (s.run.active = none ∧ runLine s.line s = .next t) := by
  unfold contextStep at h
  split at h
  · exact .inl ⟨_, _, _, by assumption, h⟩
  · exact .inr (.inl ⟨_, by assumption, (Host.Outcome.next.inj h).symm⟩)
  · exact .inr (.inr ⟨by assumption, h⟩)

/-- The issue of a command (spec/30_encoding.md R80, R95). -/
theorem issue_next {w : Words} {s t : State} (h : issue w s = .next t) :
    ∃ i, decode s.cfg w = .ok i ∧ exec i s = .next t := by
  unfold issue at h
  split at h
  · exact ⟨_, by assumption, h⟩
  · cases h

/-- The line of a context (spec/30_encoding.md R104, R105): the end of its program, a jump, or a command. -/
theorem runLine_next {line : Option ProgLine} {s t : State} (h : runLine line s = .next t) :
    t = s.endContext ∨ (∃ n, t = s.jump n) ∨
    (∃ w i, (line = some (.cmd w) ∨ ∃ w', line = some (.cmdRes w') ∧ w = wordsWithRes w' s.run.res) ∧
      decode s.cfg w = .ok i ∧ exec i s = .next t) := by
  unfold runLine at h
  split at h
  · exact .inl (Host.Outcome.next.inj h).symm
  · exact .inl (Host.Outcome.next.inj h).symm
  · exact .inr (.inl ⟨_, (Host.Outcome.next.inj h).symm⟩)
  · exact .inr (.inl ⟨_, (Host.Outcome.next.inj h).symm⟩)
  · exact .inr (.inl ⟨_, (Host.Outcome.next.inj h).symm⟩)
  · exact .inr (.inl ⟨_, (Host.Outcome.next.inj h).symm⟩)
  · obtain ⟨i, hi, ht⟩ := issue_next h
    exact .inr (.inr ⟨_, i, .inl rfl, hi, ht⟩)
  · obtain ⟨i, hi, ht⟩ := issue_next h
    exact .inr (.inr ⟨_, i, .inr ⟨_, rfl, rfl⟩, hi, ht⟩)

/-- A move of the environment always answers a next state; only the running context can stop. -/
theorem move_next_of_ne_run {e : Event} (h : e ≠ .run) (s : State) : ∃ t, move e s = .next t := by
  cases e with
  | run => exact absurd rfl h
  | time => exact ⟨_, rfl⟩
  | ext levels => exact ⟨_, rfl⟩
  | hsIn level => exact ⟨_, rfl⟩
  | cpuIe enable => exact ⟨_, rfl⟩
  | store addr v => exact ⟨_, rfl⟩
  | deliver src => exact ⟨_, rfl⟩

/-- A source the default schedule chooses may be delivered (spec/60_exceptions.md R240). -/
theorem State.mayDeliver_of_chooseSource {s : State} {src : Source} (h : s.chooseSource = some src) :
    s.mayDeliver src = true := by
  have hmem : src ∈ s.deliverables := by
    unfold State.chooseSource at h
    split at h
    · cases h
    · rename_i src' hs
      rw [hs, ← Option.some.inj h]
      exact List.mem_singleton.mpr rfl
    · rename_i first rest hne hs
      have hlt : Config.freeNat s.inputs.draws % (rest.length + 1) < (first :: rest).length := by
        simpa using Nat.mod_lt (Config.freeNat s.inputs.draws) (Nat.succ_pos rest.length)
      rw [hs, ← Option.some.inj h, List.getD_eq_getElem _ _ hlt]
      exact List.getElem_mem hlt
  exact (List.mem_filter.mp hmem).2

/-- The move of the default schedule (log 12). -/
theorem defaultMove_next {s t : State} (h : defaultMove s = .next t) :
    (s.sched.turn = .time ∧ t = (s.setTurn .caller).timeStep) ∨
    (s.sched.turn = .caller ∧ ∃ src, s.mayDeliver src = true ∧
      t = { (s.setTurn .time).deliver src with inputs := { s.inputs with draws := s.drawsAfterChoice } }) ∨
    (s.sched.turn = .caller ∧ s.chooseSource = none ∧ contextStep (s.setTurn .time) = .next t) := by
  unfold defaultMove at h
  split at h
  · exact .inl ⟨by assumption, (Host.Outcome.next.inj h).symm⟩
  · split at h
    · rename_i src hsrc
      exact .inr (.inl ⟨by assumption, src, State.mayDeliver_of_chooseSource hsrc, (Host.Outcome.next.inj h).symm⟩)
    · exact .inr (.inr ⟨by assumption, by assumption, h⟩)

/-- The step of the machine: no refusal of the launch, and a move of the script or of the default schedule. -/
theorem step_next {s t : State} (h : step s = .next t) :
    launchRefusal s.cfg s.progs = none ∧
    ((∃ e rest, s.sched.script = e :: rest ∧ move e { s with sched := { s.sched with script := rest } } = .next t) ∨
      (s.sched.script = [] ∧ defaultMove s = .next t)) := by
  unfold step machineStep at h
  split at h
  · cases h
  · refine ⟨by assumption, ?_⟩
    unfold interleave at h
    split at h
    · exact .inl ⟨_, _, by assumption, h⟩
    · exact .inr ⟨by assumption, h⟩

/-- A launch that is not refused has a well-formed configuration (spec/00_scope.md R11). -/
theorem wf_of_launchRefusal {cfg : Config} {progs : Programs} (h : launchRefusal cfg progs = none) : cfg.wf = true := by
  unfold launchRefusal at h
  split at h
  · cases h
  · simp_all

end Sys2Proof.Machine
end

