-- ==== Sys2Proof/Tests/Slice0.lean ====
section
/-!
SUPPORT. Tests of the model against values of the spec: ill-formed terms that are refused, words written out from
spec/30_encoding.md and spec/95_test_vectors.md, one step of each command, and a witness for the hypotheses of each
statement that has some.
-/

namespace Sys2Proof.Tests

open Sys2Proof Sys2Proof.Machine Sys2Proof.Claims

/-! ### Small states -/

/-- `NARROW8` at reset. -/
def narrow : State :=
  State.launch { Launch.default with cfg := Config.full .narrow8, admitted := [⟨0, 2 ^ 16⟩] }

/-- At reset under another configuration. -/
def under (cfg : Config) : State := State.launch { Launch.default with cfg := cfg }

/-- Bus levels `OUT` and `EXT`, the ATN and CLOCK sources armed or not. -/
def bus (out ext : Lines) (armed : Bool) : State :=
  { State.reset with
    out := out
    env := { State.reset.env with ext := ext }
    irq := { State.reset.irq with enAtn := armed, enClock := armed } }

/-- Every line released. -/
def high : Lines := ⟨true, true, true, true⟩

/-- The SPI Transport in use, idle or between two bytes of a block command. -/
def spi (speed : Speed) (sel : Selector) (busy : Bool) : State :=
  { State.reset with spi := ⟨true, speed, sel, busy⟩ }

/-- The SPI Transport idle, with bytes in memory, admitted regions, and the answers the device has ready. -/
def card (mem : Memory) (admitted : List Region) (answers : List Byte) : State :=
  { spi .slow .card0 false with
    mem := mem
    admitted := admitted
    inputs := { spiIn := answers, draws := 0 } }

/-- "123456789" at 0x0100. -/
def digits : Memory :=
  [(0x100, 0x31#8), (0x101, 0x32#8), (0x102, 0x33#8), (0x103, 0x34#8), (0x104, 0x35#8), (0x105, 0x36#8),
    (0x106, 0x37#8), (0x107, 0x38#8), (0x108, 0x39#8)]

/-- The main path in the middle of a block command over the nine digits, with the SPI Transport between two bytes. -/
def inBlock (k : Block) (addr left : Nat) : State :=
  { card digits [⟨0x100, 9⟩] [0x5A#8] with
    spi := ⟨true, .slow, .card0, true⟩
    run := ⟨.main, 0, 0#32, some (.block k addr left)⟩ }

/-- The main path at line 0 of a program. -/
def running (main : List ProgLine) (script : List Event) : State :=
  { State.reset with progs := ⟨main, [], [], []⟩, sched := ⟨script, .caller⟩ }

/-- A handler above the main path, which stands in the middle of a delay. -/
def inHandler (line : List ProgLine) : State :=
  { State.reset with
    progs := ⟨[], line, [], []⟩
    run := ⟨.handler .edgeAtn, 0, 7#32, none⟩
    stack := [⟨.main, 3, 5#32, some (.delay 60)⟩] }

/-- A source pending and enabled. -/
def pendingAtn (nesting : IrqNesting) (ie : Bool) : State :=
  { State.reset with
    cfg := { Config.full .wide32 with irqNesting := nesting }
    irq := { State.reset.irq with enAtn := true, pendAtn := true }
    env := { State.reset.env with cpuIe := ie } }

/-- The result word of a step. -/
def resOf (r : Result) : Option Word := (resultState r).map fun s => s.run.res

/-- The command in progress after a step. -/
def activeOf (r : Result) : Option (Option Active) := (resultState r).map fun s => s.run.active

/-- The exchanges recorded after a step. -/
def eventsOf (r : Result) : Option (List SpiEvent) := (resultState r).map State.spiEvents

/-- What the decoder answers on an architecture. -/
def dec (arch : Arch) (w0 w1 w2 : Word) : Except DecodeError Instr := decode (Config.full arch) ⟨w0, w1, w2⟩

/-! ### Well-formedness: an ill-formed term for each check (spec/30_encoding.md R93, R99, spec/00_scope.md R11, R12) -/

theorem test_wf_refuses_timeouts :
    Instr.wf (Config.full .wide32) (.startTimeout 0#24) = false ∧
    Instr.wf (Config.full .narrow8) (.startTimeout 257#24) = false := by decide

theorem test_wf_refuses_delays_on_narrow :
    Instr.wf (Config.full .narrow8) (.delayUs 10#24) = false ∧
    Instr.wf (Config.full .narrow8) (.delayMs 1#24) = false := by decide

theorem test_wf_refuses_block_addresses_on_narrow :
    Instr.wf (Config.full .narrow8) (.crc7Block 0#8 0x10000#32 1#32) = false ∧
    Instr.wf (Config.full .narrow8) (.crc16Block 0#16 0x10000#32 1#32) = false ∧
    Instr.wf (Config.full .narrow8) (.spiTxBlock 0x10000#32 1#32) = false ∧
    Instr.wf (Config.full .narrow8) (.spiRxBlock 0x10000#32 1#32) = false := by decide

theorem test_provided_refuses :
    Instr.provided { Config.full .wide32 with wiredAtn := false } (.setAtnIrq true) = false ∧
    Instr.provided { Config.full .wide32 with wiredClock := false } (.setClockIrq true) = false ∧
    Instr.provided { Config.full .wide32 with hasParallel := false } .parallelInit = false := by decide

theorem test_config_wf_refuses :
    Config.wf { Config.full .wide32 with tickW := 8 } = false ∧
    Config.wf { Config.full .wide32 with addrW := 16 } = false ∧
    Config.wf { Config.full .wide32 with toMax := 256 } = false ∧
    Config.wf { Config.full .wide32 with spiDivFast := 2 } = false ∧
    Config.wf { Config.full .wide32 with spiDivFast := 0 } = false ∧
    Config.wf { Config.full .narrow8 with toTicks := [(5, 257)] } = false ∧
    Config.wf (Config.full .wide32) = true ∧ Config.wf (Config.full .narrow8) = true := by decide

theorem test_memory_wf_refuses :
    Memory.wf [(2, 1#8), (1, 1#8)] = false ∧ Memory.wf [(1, 1#8), (1, 2#8)] = false ∧
    Memory.wf [(1, 0#8)] = false ∧ Memory.wf digits = true := by decide

/-! ### Decoding: words of spec/95_test_vectors.md section 2.1, every constructor once at least -/

theorem test_decode_timeout :
    dec .wide32 0x00006410#32 0#32 0#32 = .ok (.startTimeout 100#24) ∧
    dec .narrow8 0x00010010#32 0#32 0#32 = .ok (.startTimeout 256#24) ∧
    dec .wide32 0xFFFFFF10#32 0#32 0#32 = .ok (.startTimeout 0xFFFFFF#24) ∧
    dec .wide32 0x00000011#32 0#32 0#32 = .ok .hasTimedOut ∧
    dec .wide32 0x00000A12#32 0#32 0#32 = .ok (.delayUs 10#24) ∧
    dec .wide32 0x00000013#32 0#32 0#32 = .ok (.delayMs 0#24) := by decide

theorem test_decode_bus :
    dec .wide32 0x00000020#32 0#32 0#32 = .ok .iecBusRead ∧
    dec .wide32 0x00000121#32 0#32 0#32 = .ok (.setAtn true) ∧
    dec .wide32 0x00000022#32 0#32 0#32 = .ok (.setClock false) ∧
    dec .wide32 0x00000123#32 0#32 0#32 = .ok (.setData true) ∧
    dec .wide32 0x00000124#32 0#32 0#32 = .ok (.setSrq true) := by decide

theorem test_decode_irq :
    dec .wide32 0x00000130#32 0#32 0#32 = .ok (.setAtnIrq true) ∧
    dec .wide32 0x00000131#32 0#32 0#32 = .ok (.setClockIrq true) ∧
    dec .wide32 0x00000030#32 0#32 0#32 = .ok (.setAtnIrq false) := by decide

theorem test_decode_crc :
    dec .wide32 0x00FF8040#32 0#32 0#32 = .ok (.crc7Update 0xFF#8 0x80#8) ∧
    dec .wide32 0x12345641#32 0#32 0#32 = .ok (.crc16Update 0x1234#16 0x56#8) ∧
    dec .wide32 0x00750042#32 0x100#32 9#32 = .ok (.crc7Block 0x75#8 0x100#32 9#32) ∧
    dec .wide32 0x12340043#32 0x100#32 9#32 = .ok (.crc16Block 0x1234#16 0x100#32 9#32) ∧
    dec .narrow8 0x00000043#32 0xFFFF#32 1#32 = .ok (.crc16Block 0#16 0xFFFF#32 1#32) := by decide

theorem test_decode_spi :
    dec .wide32 0x00000150#32 0#32 0#32 = .ok (.spiInit .fast) ∧
    dec .wide32 0x00000351#32 0#32 0#32 = .ok (.spiSelectDevice .all) ∧
    dec .wide32 0x00000151#32 0#32 0#32 = .ok (.spiSelectDevice .card0) ∧
    dec .wide32 0x0000AB52#32 0#32 0#32 = .ok (.spiTxByte 0xAB#8) ∧
    dec .wide32 0x00000053#32 0#32 0#32 = .ok .spiRxByte ∧
    dec .wide32 0x00000054#32 0x200#32 10#32 = .ok (.spiTxBlock 0x200#32 10#32) ∧
    dec .wide32 0x00000055#32 0x300#32 2#32 = .ok (.spiRxBlock 0x300#32 2#32) ∧
    dec .wide32 0x00000156#32 0#32 0#32 = .ok (.spiSetSpeed .fast) := by decide

theorem test_decode_parallel : dec .wide32 0x00000060#32 0#32 0#32 = .ok .parallelInit := by decide

theorem test_decode_refuses_opcodes :
    dec .wide32 0x00000000#32 0#32 0#32 = .error .illegalCommand ∧
    dec .wide32 0x000000FF#32 0#32 0#32 = .error .illegalCommand ∧
    dec .wide32 0x00000014#32 0#32 0#32 = .error .illegalCommand := by decide

theorem test_decode_refuses_reserved_bits :
    dec .wide32 0x00000111#32 0#32 0#32 = .error .reservedField ∧
    dec .wide32 0x00000221#32 0#32 0#32 = .error .reservedField ∧
    dec .wide32 0x80000021#32 0#32 0#32 = .error .reservedField ∧
    dec .wide32 0x01000040#32 0#32 0#32 = .error .reservedField ∧
    dec .wide32 0x00750142#32 0x100#32 9#32 = .error .reservedField ∧
    dec .wide32 0x00000143#32 0#32 0#32 = .error .reservedField ∧
    dec .wide32 0x00000451#32 0#32 0#32 = .error .reservedField ∧
    dec .wide32 0x0001AB52#32 0#32 0#32 = .error .reservedField ∧
    dec .wide32 0x00000154#32 0x200#32 10#32 = .error .reservedField := by decide

theorem test_decode_refuses_operands :
    dec .wide32 0x00000010#32 0#32 0#32 = .error .operandRange ∧
    dec .narrow8 0x00010110#32 0#32 0#32 = .error .operandRange ∧
    dec .narrow8 0x00000043#32 0x10000#32 1#32 = .error .operandRange ∧
    dec .narrow8 0x00000A12#32 0#32 0#32 = .error .notOnArch := by decide

/-- The order of the checks (spec/30_encoding.md R95): section 2.1, below its table. -/
theorem test_decode_order :
    dec .narrow8 0x00010112#32 0#32 0#32 = .error .notOnArch ∧
    dec .narrow8 0x00000154#32 0x10000#32 1#32 = .error .reservedField := by decide

/-- Rows of spec/opcode_table.json as numbers: the words 0x12340043, 0x100, 9 laid out from bit 0 up. -/
theorem test_decode_table_word :
    decodeTableWord 96 0x000000090000010012340043 = some (.crc16Block 0x1234#16 0x100#32 9#32) ∧
    decodeTableWord 32 0x00000351 = some (.spiSelectDevice .all) ∧ decodeTableWord 32 0x10 = none := by decide

/-! ### Timeout Service (spec/95_test_vectors.md sections 2.2 and 2.3) -/

theorem test_tick_delta :
    tickDelta 0x02#8 0xFE#8 = 4 ∧ tickDelta 0xFE#8 0x02#8 = -4 ∧ tickDelta 0x80#8 0x00#8 = -128 ∧
    tickAfter 0x7F#8 0x00#8 = true ∧ tickAfter 0x37#8 0x37#8 = false ∧
    tickDelta 0x00000001#32 0xFFFFFFFF#32 = 2 := by decide

/-- V-TO-6. -/
theorem test_start_timeout_maximum :
    (resultState (exec (.startTimeout 256#24) narrow)).map (fun s => (s.timeout.toRem, s.timeout.toExp, s.run.res)) =
      some (256, false, 0#32) := by decide

/-- V-TO-7. -/
theorem test_start_timeout_past_the_maximum :
    resultRefusal (issue ⟨0x00010110#32, 0#32, 0#32⟩ narrow) = some (.operandRange ⟨0x00010110#32, 0#32, 0#32⟩) := by
  decide

/-- V-TO-2, V-TO-3: the last step of a deadline of 3. -/
theorem test_has_timed_out :
    resOf (exec .hasTimedOut { State.reset with timeout := ⟨1, false, 0⟩ }) = some 0#32 ∧
    resOf (exec .hasTimedOut (State.timeStep { State.reset with timeout := ⟨1, false, 0⟩ })) = some 1#32 := by decide

/-- V-TO-8. -/
theorem test_delay_us_zero : resOf (exec (.delayUs 0#24) State.reset) = some 0#32 := by decide

/-- V-TO-10. -/
theorem test_delay_ms : activeOf (exec (.delayMs 2#24) State.reset) = some (some (.delay 2000)) := by decide

/-- V-TO-11. -/
theorem test_delay_ms_on_narrow : resultRefusal (exec (.delayMs 1#24) narrow) = some (.notOnArch 0x00000113#32) := by
  decide

/-! ### Bus Line Driver/Sampler (spec/95_test_vectors.md section 2.4) -/

/-- V-BUS-3, V-BUS-11. -/
theorem test_bus_read :
    resOf (exec .iecBusRead (bus ⟨true, false, true, true⟩ high false)) = some 0x0000000D#32 ∧
    resOf (exec .iecBusRead (bus ⟨true, false, false, true⟩ ⟨false, true, true, true⟩ false)) = some 0x00000008#32 := by
  decide

/-- V-BUS-12 with the source armed, V-EDGE-9. -/
theorem test_set_atn :
    (resultState (exec (.setAtn false) (bus high high true))).map (fun s => (s.out.atn, s.irq.pendAtn)) =
      some (false, true) ∧
    (resultState (exec (.setAtn false) (bus high high false))).map (fun s => (s.out.atn, s.irq.pendAtn)) =
      some (false, false) := by decide

/-- V-BUS-14: another device holds CLOCK low, so the wire does not move. -/
theorem test_set_clock_held :
    (resultState (exec (.setClock false) (bus high ⟨true, false, true, true⟩ true))).map
      (fun s => (s.out.clock, s.irq.pendClock)) = some (false, false) := by decide

/-- V-EDGE-4. -/
theorem test_set_clock_edge :
    (resultState (exec (.setClock false) (bus high high true))).map (fun s => (s.out.clock, s.irq.pendClock)) =
      some (false, true) := by decide

/-- V-BUS-17. -/
theorem test_set_data :
    (resultState (exec (.setData false) (bus high high true))).map (fun s => (s.out, s.irq)) =
      some (⟨true, true, false, true⟩, ⟨true, true, false, false, false⟩) := by decide

/-- V-BUS-16, its second command. -/
theorem test_set_srq :
    (resultState (exec (.setSrq false) (bus ⟨true, true, false, true⟩ high false))).map State.snapshot =
      some 0x00000003#32 := by decide

/-! ### Edge-Capture/Interrupt Controller (spec/95_test_vectors.md section 2.5) -/

/-- V-EDGE-2: arming makes no pending bit. -/
theorem test_set_atn_irq :
    (resultState (exec (.setAtnIrq true) (bus high ⟨false, true, true, true⟩ false))).map
      (fun s => (s.irq.enAtn, s.irq.pendAtn)) = some (true, false) := by decide

/-- V-EDGE-8. -/
theorem test_set_clock_irq :
    (resultState (exec (.setClockIrq false) (pendingAtn .admitted true))).map
      (fun s => (s.irq.enAtn, s.irq.pendAtn, s.irq.enClock)) = some (true, true, false) := by decide

/-- V-EDGE-10. -/
theorem test_unwired_program :
    resultRefusal (step { running [.cmd ⟨0x00000011#32, 0#32, 0#32⟩, .cmd ⟨0x00000131#32, 0#32, 0#32⟩] [] with
      cfg := { Config.full .wide32 with wiredClock := false } }) = some (.configUnwiredIrq .main 1) := by decide

/-- V-EDGE-1: an edge of the armed line. -/
theorem test_environment_edge :
    (resultState (move (.ext ⟨false, true, true, true⟩) (bus high high true))).map (fun s => s.irq.pendAtn) =
      some true := by decide

/-- A delivery and the return from the handler (spec/60_exceptions.md R240, R241). -/
theorem test_delivery_and_return :
    (resultState (move (.deliver .edgeAtn) (pendingAtn .admitted true))).map
      (fun s => (s.run, s.stack.length, s.irq.pendAtn)) = some (⟨.handler .edgeAtn, 0, 0#32, none⟩, 1, false) ∧
    (resultState (contextStep (inHandler [.halt]))).map (fun s => (s.run, s.stack)) =
      some (⟨.main, 3, 5#32, some (.delay 60)⟩, []) := by decide

/-! ### CRC Engine (spec/95_test_vectors.md section 2.6) -/

/-- V-CRC-9, V-CRC-12, V-CRC-14, V-CRC-16. -/
theorem test_crc7_update :
    crc7Upd 0x00#8 0x80#8 = 0x41#8 ∧ crc7Upd 0x7F#8 0xFF#8 = 0x09#8 ∧ crc7Upd 0xFF#8 0x00#8 = 0x70#8 ∧
    resOf (issue ⟨0x00801240#32, 0#32, 0#32⟩ State.reset) = some 0x0B#32 := by decide

/-- V-CRC-48, V-CRC-54, V-CRC-56. -/
theorem test_crc16_update :
    crc16Upd 0#16 0x80#8 = 0x9188#16 ∧ crc16Upd 0xABCD#16 0xAB#8 = 0xCD00#16 ∧
    resOf (issue ⟨0x12345641#32, 0#32, 0#32⟩ State.reset) = some 0x3C40#32 := by decide

/-- V-CRC-23, and its form on one byte of memory. -/
theorem test_crc7_block_one_byte :
    resOf (exec (.crc7Block 0#8 0x41#32 1#32) { State.reset with mem := [(0x41, 0x41#8)] }) = some 0x6D#32 := by decide

/-- V-CRC-33, V-CRC-82: zero length returns the accumulator unchanged. -/
theorem test_crc7_block_zero_length :
    resOf (exec (.crc7Block 0xFF#8 0xFFFFFFFF#32 0#32) State.reset) = some 0xFF#32 := by decide

/-- V-CRC-64 on the last byte of memory, V-CRC-80. -/
theorem test_crc16_block_one_byte :
    resOf (exec (.crc16Block 0#16 0xFFFF#32 1#32) { narrow with mem := [(0xFFFF, 0x41#8)] }) = some 0x58E5#32 := by
  decide

/-- V-CRC-81. -/
theorem test_crc16_block_wraps :
    resultFault (exec (.crc16Block 0#16 0xFFFF#32 2#32) narrow) = some (.addrWrap 0x43#32 0xFFFF#32 2#32) := by decide

/-- V-CRC-83: the third byte of a block command, at an address that is not admitted. -/
theorem test_block_stuck :
    resultFault (contextStep { State.reset with
      admitted := [⟨0x1000, 2⟩]
      run := ⟨.main, 0, 0#32, some (.block (.crc16 0#16) 0x1002 2)⟩ }) = some (.stuckUnadmitted 0x1002) := by decide

/-! ### SPI Transport (spec/95_test_vectors.md sections 2.7 and 2.9) -/

/-- V-SPI-1. -/
theorem test_spi_init :
    (resultState (exec (.spiInit .slow) State.reset)).map (fun s => (s.spi, s.cs0, s.cs1, s.spiOut)) =
      some (⟨true, .slow, .none, false⟩, false, false, []) := by decide

/-- V-SPI-6. -/
theorem test_spi_init_again :
    (resultState (exec (.spiInit .slow) (spi .fast .card1 false))).map (fun s => s.spi) =
      some ⟨true, .slow, .none, false⟩ := by decide

/-- V-SPI-3. -/
theorem test_spi_select :
    (resultState (exec (.spiSelectDevice .card1) (spi .slow .card0 false))).map (fun s => (s.cs0, s.cs1)) =
      some (false, true) := by decide

/-- V-SPI-7 with an answer of 0x5A. -/
theorem test_spi_tx_byte :
    (resultState (exec (.spiTxByte 0xFF#8) { spi .slow .all false with inputs := ⟨[0x5A#8], 0⟩ })).map
      (fun s => (s.spiEvents, s.run.res)) = some ([⟨true, true, .slow, 0xFF#8⟩], 0x5A#32) := by decide

/-- V-SPI-2. -/
theorem test_spi_tx_byte_before_init :
    resultFault (exec (.spiTxByte 0xFF#8) State.reset) = some (.spiUninit 0x0000FF52#32) := by decide

/-- V-SPI-8. -/
theorem test_spi_rx_byte :
    eventsOf (exec .spiRxByte (spi .fast .card0 false)) = some [⟨true, false, .fast, 0xFF#8⟩] := by decide

/-- V-SPI-13. -/
theorem test_spi_rx_byte_in_a_block :
    resultFault (exec .spiRxByte { spi .slow .card0 true with run := ⟨.handler .parHs, 0, 0#32, none⟩ }) =
      some (.spiReentry 0x53#32 (.handler .parHs)) := by decide

/-- V-SPI-10, its first byte. -/
theorem test_spi_tx_block :
    (resultState (exec (.spiTxBlock 0x200#32 3#32)
      (card [(0x200, 0x11#8), (0x201, 0x22#8), (0x202, 0x33#8)] [⟨0, 2 ^ 32⟩] []))).map
        (fun s => (s.spiEvents, s.spi.spiBusy, s.run.active)) =
      some ([⟨true, false, .slow, 0x11#8⟩], true, some (.block .spiTx 0x201 2)) := by decide

/-- V-OUT-1: `SPI_UNINIT` comes before `ADDR_WRAP`. -/
theorem test_spi_tx_block_order :
    resultFault (exec (.spiTxBlock 0xFFFFFFFF#32 2#32) State.reset) = some (.spiUninit 0x54#32) := by decide

/-- V-SPI-11, its last byte. -/
theorem test_spi_rx_block :
    (resultState (exec (.spiRxBlock 0x301#32 1#32) (card [(0x300, 0xFE#8)] [⟨0, 2 ^ 32⟩] [0x12#8]))).map
      (fun s => (s.readByte 0x300, s.readByte 0x301, s.spiEvents, s.spi.spiBusy)) =
      some (0xFE#8, 0x12#8, [⟨true, false, .slow, 0xFF#8⟩], false) := by decide

/-- An unadmitted first byte (spec/44_spi.md R204, R203): stuck with `SPI_BUSY = 1` and nothing exchanged, and a handler
meets `SPI_REENTRY`. -/
theorem test_spi_rx_block_stuck :
    (resultState (exec (.spiRxBlock 0x301#32 2#32) (card [] [] [0x12#8]))).map
      (fun s => (s.spi.spiBusy, s.spiEvents, resultFault (contextStep s),
        resultFault (exec .spiRxByte { s with run := ⟨.handler .parHs, 0, 0#32, none⟩ }))) =
      some (true, [], some (.stuckUnadmitted 0x301), some (.spiReentry 0x53#32 (.handler .parHs))) := by decide

/-- V-SPI-5. -/
theorem test_spi_set_speed :
    (resultState (exec (.spiSetSpeed .fast) (spi .slow .card0 false))).map (fun s => s.spi) =
      some ⟨true, .fast, .card0, false⟩ := by decide

/-! ### Parallel Handshake Transport (spec/95_test_vectors.md section 2.8) -/

/-- V-PAR-1. -/
theorem test_parallel_init :
    (resultState (exec .parallelInit State.reset)).map (fun s => (s.par, s.irq.pendPar)) =
      some (⟨true, true, 0xFF#8, true, true⟩, false) := by decide

/-- Open-drain lines (spec/45_parallel.md R222): a 0 pulls line 0 low, a 1 releases line 1. -/
theorem test_parallel_lines :
    ∀ others ∈ [true, false],
      ({ State.reset with par := ⟨true, true, 0xFE#8, true, true⟩ } : State).parWire (.data 0) others = false ∧
      ({ State.reset with par := ⟨true, true, 0xFE#8, true, true⟩ } : State).parWire (.data 1) others = others := by
  decide

/-- V-PAR-2 and V-PAR-4: the same change of the sensed line after and before `parallel_init`. -/
theorem test_handshake_edge :
    (resultState (move (.hsIn false) { State.reset with par := ⟨true, true, 0xFF#8, true, true⟩ })).map
      (fun s => (s.irq.pendPar, s.par.hsPrev)) = some (true, false) ∧
    (resultState (move (.hsIn false) State.reset)).map (fun s => (s.irq.pendPar, s.par.hsPrev)) =
      some (false, false) := by decide

/-! ### The harness: words built from `res` (spec/95_test_vectors.md, program P1, lines 1 and 5) -/

theorem test_res_operand :
    wordsWithRes ⟨0x00000043#32, 0x104#32, 5#32⟩ 0xD789#32 = ⟨0xD7890043#32, 0x104#32, 5#32⟩ ∧
    wordsWithRes ⟨0x00000040#32, 0#32, 0#32⟩ 0x75#32 = ⟨0x00750040#32, 0#32, 0#32⟩ := by decide

/-- P1, line 3: `bnz` falls through when `res = 0`. -/
theorem test_bnz_falls_through :
    (resultState (contextStep (running [.bnz 7] []))).map (fun s => s.run.pc) = some 1 := by decide

/-- A refused run has no final state (spec/60_exceptions.md R253). -/
theorem test_finished :
    State.reset.finished = true ∧ (under { Config.full .wide32 with tickW := 8 }).finished = false := by decide

/-! ### Witnesses: for each statement that has hypotheses, a state and operands that meet them, clause by clause -/

theorem witness_EncodeAndDecodeAgree :
    (Instr.startTimeout 0xFFFFFF#24).wf (Config.full .wide32) = true ∧
    (Instr.crc16Block 0xFFFF#16 0xFFFF#32 0xFFFFFFFF#32).wf (Config.full .narrow8) = true ∧
    dec .wide32 0x00FF8040#32 5#32 7#32 = .ok (.crc7Update 0xFF#8 0x80#8) ∧
    dec .wide32 0x12340043#32 0x100#32 9#32 = .ok (.crc16Block 0x1234#16 0x100#32 9#32) ∧
    (Instr.crc16Block 0x1234#16 0x100#32 9#32).mnemonic.format.isBlock = true := by decide

theorem witness_UnassignedOpcodesAreIllegal :
    decode State.reset.cfg ⟨0x0F#32, 0#32, 0#32⟩ = .error .illegalCommand ∧
    decode State.reset.cfg ⟨0x14#32, 0#32, 0#32⟩ = .error .illegalCommand ∧
    decode State.reset.cfg ⟨0x1F#32, 0#32, 0#32⟩ = .error .illegalCommand ∧
    decode State.reset.cfg ⟨0x25#32, 0#32, 0#32⟩ = .error .illegalCommand ∧
    decode State.reset.cfg ⟨0x2F#32, 0#32, 0#32⟩ = .error .illegalCommand ∧
    decode State.reset.cfg ⟨0x32#32, 0#32, 0#32⟩ = .error .illegalCommand ∧
    decode State.reset.cfg ⟨0x3F#32, 0#32, 0#32⟩ = .error .illegalCommand ∧
    decode State.reset.cfg ⟨0x44#32, 0#32, 0#32⟩ = .error .illegalCommand ∧
    decode State.reset.cfg ⟨0x4F#32, 0#32, 0#32⟩ = .error .illegalCommand ∧
    decode State.reset.cfg ⟨0x57#32, 0#32, 0#32⟩ = .error .illegalCommand ∧
    decode State.reset.cfg ⟨0x5F#32, 0#32, 0#32⟩ = .error .illegalCommand ∧
    decode State.reset.cfg ⟨0x61#32, 0#32, 0#32⟩ = .error .illegalCommand ∧
    decode State.reset.cfg ⟨0xFFFFFFFF#32, 0#32, 0#32⟩ = .error .illegalCommand := by decide

theorem witness_ReservedBitsAreRefused :
    opField 0x80000021#32 = Mnemonic.setAtn.op ∧ 0x80000021#32 &&& reservedBits Mnemonic.setAtn.format ≠ 0#32 ∧
    opField 0x00000154#32 = Mnemonic.spiTxBlock.op ∧
    0x00000154#32 &&& reservedBits Mnemonic.spiTxBlock.format ≠ 0#32 := by decide

theorem witness_OperandsOutOfRangeAreRefused :
    opField 0x00000010#32 = 0x10#8 ∧ imm24Field 0x00000010#32 = 0#24 ∧
    opField 0x00010110#32 = 0x10#8 ∧ narrow.cfg.toMax < (imm24Field 0x00010110#32).toNat ∧
    Mnemonic.crc16Block.format.isBlock = true ∧ opField 0x00000043#32 = Mnemonic.crc16Block.op ∧
    0x00000043#32 &&& reservedBits Mnemonic.crc16Block.format = 0#32 ∧ narrow.cfg.arch = .narrow8 ∧
    (0x00010000#32).extractLsb' 16 16 ≠ 0#16 ∧ opField 0x00000A12#32 = 0x12#8 ∧ opField 0x00000113#32 = 0x13#8 := by
  decide

theorem witness_StepRunsTheDecodedCommand :
    (∀ script ∈ [[.run, .time], []],
      launchRefusal (running [.cmd ⟨0x21#32, 0#32, 0#32⟩] script).cfg
        (running [.cmd ⟨0x21#32, 0#32, 0#32⟩] script).progs = none ∧
      (running [.cmd ⟨0x21#32, 0#32, 0#32⟩] script).run.active = none ∧
      (running [.cmd ⟨0x21#32, 0#32, 0#32⟩] script).line = some (.cmd ⟨0x21#32, 0#32, 0#32⟩) ∧
      decode (running [.cmd ⟨0x21#32, 0#32, 0#32⟩] script).cfg ⟨0x21#32, 0#32, 0#32⟩ = .ok (.setAtn false) ∧
      (running [.cmd ⟨0x21#32, 0#32, 0#32⟩] script).sched.turn = .caller ∧
      ∀ src ∈ [Source.edgeAtn, .edgeClock, .parHs],
        (running [.cmd ⟨0x21#32, 0#32, 0#32⟩] script).mayDeliver src = false) ∧
    launchRefusal State.reset.cfg (State.reset.withFetchWord 32 0x21).progs = none ∧
    decode State.reset.cfg (wordsOfNat 32 0x21) = .ok (.setAtn false) ∧
    launchRefusal (inHandler [.halt]).cfg ((inHandler [.halt]).withFetchWord 32 0x60).progs = none := by decide

/-- The clauses about the schedule: a refused launch, time's turn, and a source that may be delivered. -/
theorem witness_StepRunsTheDecodedCommand_schedule :
    launchRefusal (under { Config.full .wide32 with tickW := 8 }).cfg
      (under { Config.full .wide32 with tickW := 8 }).progs ≠ none ∧
    launchRefusal State.reset.cfg State.reset.progs = none ∧ State.reset.sched.script = [] ∧
    ({ State.reset with sched := ⟨[], .time⟩ } : State).sched.turn = .time ∧
    launchRefusal (pendingAtn .admitted true).cfg (pendingAtn .admitted true).progs = none ∧
    (pendingAtn .admitted true).sched = ⟨[], .caller⟩ ∧ (pendingAtn .admitted true).mayDeliver .edgeAtn = true ∧
    (resultState (step (pendingAtn .admitted true))).map (fun t => (t.run.owner, t.sched.turn)) =
      some (.handler .edgeAtn, .time) := by decide

theorem witness_HarnessLinesMoveTheContext :
    (running [.label] []).run.active = none ∧ (running [.label] []).line = some .label ∧
    (running [.b 5] []).line = some (.b 5) ∧ (running [.bz 0] []).line = some (.bz 0) ∧
    (inHandler [.bnz 2]).run.active = none ∧ (inHandler [.bnz 2]).line = some (.bnz 2) ∧
    (inHandler [.bnz 2]).run.res ≠ 0#32 ∧ (running [.halt] []).finished = true ∧
    (inHandler [.halt]).finished = false := by decide

theorem witness_ResStandsForTheLastResult :
    (inHandler [.cmdRes ⟨0x42#32, 0#32, 0#32⟩]).run.active = none ∧
    (inHandler [.cmdRes ⟨0x42#32, 0#32, 0#32⟩]).line = some (.cmdRes ⟨0x42#32, 0#32, 0#32⟩) ∧
    opField 0x42#32 = 0x42#8 ∧ (inHandler [.cmdRes ⟨0x41#32, 0#32, 0#32⟩]).run.active = none ∧
    (inHandler [.cmdRes ⟨0x41#32, 0#32, 0#32⟩]).line = some (.cmdRes ⟨0x41#32, 0#32, 0#32⟩) ∧
    opField 0x41#32 = 0x41#8 := by decide

theorem witness_IllFormedConfigurationsAreRefused :
    (under { Config.full .wide32 with tickW := 8 }).cfg.tickW ≠ Arch.wide32.tickW ∧
    (under { Config.full .wide32 with addrW := 16 }).cfg.addrW ≠ Arch.wide32.addrW ∧
    (under { Config.full .narrow8 with toMax := 255 }).cfg.toMax ≠ Arch.narrow8.toMax ∧
    (under { Config.full .wide32 with spiDivFast := 2 }).cfg.spiDivSlow ≤ 2 ∧
    (under { Config.full .wide32 with spiDivFast := 0 }).cfg.spiDivFast = 0 := by decide

theorem witness_UnprovidedProgramsHaveNoStep :
    ∀ p ∈ [(0x130#32, Instr.setAtnIrq true), (0x031#32, Instr.setClockIrq false), (0x060#32, Instr.parallelInit)],
      ∃ cfg ∈ [{ Config.full .wide32 with wiredAtn := false, wiredClock := false, hasParallel := false }],
        cfg.wf = true ∧ decode cfg ⟨p.1, 0#32, 0#32⟩ = .ok p.2 ∧
        .cmd ⟨p.1, 0#32, 0#32⟩ ∈ allLines ⟨[], [.label], [], [.halt, .cmd ⟨p.1, 0#32, 0#32⟩]⟩ ∧
        .cmdRes ⟨p.1, 0#32, 0#32⟩ ∈ allLines ⟨[.cmdRes ⟨p.1, 0#32, 0#32⟩], [], [], []⟩ ∧
        cfg.wiredAtn = false ∧ cfg.wiredClock = false ∧ cfg.hasParallel = false := by decide

theorem witness_TickDeltaIsTheSignedDifference :
    0 < 8 ∧ (127 : Nat) < 2 ^ (8 - 1) ∧ tickDelta (5#8 + BitVec.ofNat 8 127) 5#8 = 127 ∧
    tickDelta (5#8 + BitVec.ofNat 8 128) 5#8 = -128 := by decide

theorem witness_StartTimeoutArmsTheDeadline :
    1 ≤ (1#24).toNat ∧ (1#24).toNat ≤ narrow.cfg.toMax ∧ (256#24).toNat ≤ narrow.cfg.toMax ∧ (0#24).toNat = 0 ∧
    narrow.cfg.toMax < (257#24).toNat := by decide

theorem witness_DelaysStartInTheIssuingContext :
    State.reset.cfg.arch = .wide32 ∧ (inHandler []).cfg.arch = .wide32 ∧ (inHandler []).stack ≠ [] ∧
    narrow.cfg.arch = .narrow8 := by decide

/-- A context with 2 µs of a delay left: moves with one time step among them, and with two. -/
theorem witness_DelayLastsItsMicroseconds :
    ({ State.reset with run := ⟨.main, 0, 0#32, some (.delay 2)⟩ } : State).run.active = some (.delay 2) ∧
    [Event.run, .time, .run].count .time < 2 ∧ 2 ≤ [Event.time, .cpuIe false, .time].count .time ∧
    Event.run ∉ [Event.time, .cpuIe false, .time] ∧
    ∀ e ∈ [Event.run, .time, .run, .cpuIe false], e ∉ [Event.deliver .edgeAtn, .deliver .edgeClock, .deliver .parHs] := by
  decide

/-- V-TO-5, before and at the deadline. -/
theorem witness_RearmingResetsTheDeadline :
    State.reset.cfg.toTicks = [] ∧ 1 ≤ (100#24).toNat ∧ (100#24).toNat ≤ State.reset.cfg.toMax ∧ 50 < (100#24).toNat ∧
    ¬(100#24).toNat ≤ 50 ∧ (100#24).toNat ≤ 100 := by decide

theorem witness_ReadAfterWriteSeesTheLine :
    Event.run ∉ [Event.time, .ext ⟨false, true, true, true⟩, .deliver .edgeAtn] := by decide

theorem witness_StepIgnoresPolarity :
    launchRefusal (running [.cmd ⟨0x121#32, 0#32, 0#32⟩] [.run]).cfg
      (running [.cmd ⟨0x121#32, 0#32, 0#32⟩] [.run]).progs = none := by decide

theorem witness_ArmingAndDisarmingSources :
    State.reset.cfg.wiredAtn = true ∧ State.reset.cfg.wiredClock = true ∧ State.reset.irq.pendAtn = false ∧
    (pendingAtn .admitted true).cfg.wiredAtn = true ∧ (pendingAtn .admitted true).irq.pendAtn = true ∧
    (under { Config.full .wide32 with wiredAtn := false }).cfg.wiredAtn = false ∧
    (under { Config.full .wide32 with wiredClock := false }).cfg.wiredClock = false := by decide

theorem witness_ArmingLeavesTheRead :
    State.reset.cfg.wiredAtn = true ∧ State.reset.cfg.wiredClock = true := by decide

theorem witness_Crc7UpdateReturnsTheUpdate :
    opField 0x01000040#32 = 0x40#8 ∧ (0x01000040#32).extractLsb' 24 8 ≠ 0#8 := by decide

/-- The clauses at their boundaries: length 0, the last byte of memory, one byte past it, an unadmitted byte. -/
theorem witness_Crc7BlockTakesItsFirstByte :
    (Instr.crc7Block 0#8 0xFFFF#32 1#32).wf narrow.cfg = true ∧
    (0xFFFF#32).toNat + (1#32).toNat ≤ 2 ^ narrow.cfg.addrW ∧ narrow.admits (0xFFFF#32).toNat = true ∧
    (Instr.crc7Block 0#8 0xFFFF#32 0#32).wf narrow.cfg = true ∧
    2 ^ narrow.cfg.addrW < (0xFFFF#32).toNat + (2#32).toNat ∧
    ({ narrow with admitted := [] } : State).admits (0xFFFF#32).toNat = false := by decide

theorem witness_Crc16BlockTakesItsFirstByte :
    (Instr.crc16Block 0#16 0xFFFFFFFF#32 1#32).wf State.reset.cfg = true ∧
    (0xFFFFFFFF#32).toNat + (1#32).toNat ≤ 2 ^ State.reset.cfg.addrW ∧
    State.reset.admits (0xFFFFFFFF#32).toNat = true ∧
    2 ^ State.reset.cfg.addrW < (0xFFFFFFFF#32).toNat + (2#32).toNat ∧
    ({ State.reset with admitted := [⟨0, 0xFFFFFFFF⟩] } : State).admits (0xFFFFFFFF#32).toNat = false := by decide

theorem witness_CrcBlocksFoldUnderInterleaving :
    2#32 ≠ 0#32 ∧ (0xFFFE#32).toNat + (2#32).toNat ≤ 2 ^ narrow.cfg.addrW ∧
    (narrow.cfg.arch = .narrow8 → (0xFFFE#32).toNat < 2 ^ 16) ∧
    (∀ k, k < 2 → narrow.admits (0xFFFE + k) = true) ∧
    (∀ e ∈ [Event.time, .store 0xFFFD 1#8, .ext high, .run], quiet 0xFFFE 2 e = true) ∧
    [Event.time, .store 0xFFFD 1#8, .ext high, .run].count .run + 1 = (2#32).toNat ∧
    (∀ level, .hsIn level ∉ [Event.time, .store 0xFFFD 1#8, .ext high, .run]) ∧
    (∀ enable, .cpuIe enable ∉ [Event.time, .store 0xFFFD 1#8, .ext high, .run]) ∧
    (∀ levels, .ext levels ∉ [Event.time, .run]) ∧
    ∀ v, .store 0xFFFE v ∉ [Event.time, .store 0xFFFD 1#8, .ext high, .run] := by
  refine ⟨?_, ?_, ?_, ?_, ?_, ?_, ?_, ?_, ?_, ?_⟩ <;> first | decide | simp

theorem witness_SpiCommandsNeedInit :
    ∀ i ∈ [Instr.spiSelectDevice .all, .spiTxByte 0#8, .spiRxByte, .spiTxBlock 0#32 0#32, .spiRxBlock 0xFFFFFFFF#32 2#32,
      .spiSetSpeed .fast], i.wf State.reset.cfg = true ∧ needsSpiInit i = true ∧ State.reset.spi.spiOn = false := by
  decide

theorem witness_SpiCommandsNeedASingleCaller :
    (Instr.spiInit .slow).wf State.reset.cfg = true ∧ (spi .slow .card0 true).spi.spiBusy = true ∧
    (spi .slow .card0 true).spi.spiOn = true ∧ (Instr.spiTxBlock 0#32 0#32).wf State.reset.cfg = true ∧
    needsSpiInit (.spiTxBlock 0#32 0#32) = true := by decide

theorem witness_SpiInitConfiguresAndDeselects :
    State.reset.spi.spiBusy = false ∧ (spi .fast .all false).spi.spiBusy = false ∧
    (spi .fast .all true).spi.spiBusy = true := by decide

theorem witness_SpiSelectDeviceWritesTheSelector :
    (spi .slow .card0 false).spi.spiOn = true ∧ (spi .slow .card0 false).spi.spiBusy = false ∧
    State.reset.spi.spiOn = false ∧ (spi .slow .card0 true).spi.spiOn = true ∧
    (spi .slow .card0 true).spi.spiBusy = true := by decide

theorem witness_SelectionIsExclusive :
    (spi .fast .all false).spi.spiOn = true ∧ (spi .fast .all false).spi.spiBusy = false ∧
    (spi .fast .all false).cs0 = true ∧ (spi .fast .all false).cs1 = true := by decide

theorem witness_SelectionChangesAreRecorded :
    (spi .slow .card0 false).spi.spiOn = true ∧ (spi .slow .card0 false).spi.spiBusy = false ∧
    (resultState (exec (.spiSelectDevice .card1) (spi .slow .card0 false))).map (fun s => s.spiOut) =
      some [.select false true] ∧
    (resultState (exec (.spiSelectDevice .card0) (spi .slow .card0 false))).map (fun s => s.spiOut) = some [] ∧
    (resultState (exec (.spiInit .fast) (spi .slow .card0 false))).map (fun s => s.spiOut) =
      some [.select false false] ∧
    (resultState (exec (.spiInit .fast) State.reset)).map (fun s => s.spiOut) = some [] := by decide

theorem witness_SpiByteTransfersExchangeOneByte :
    (spi .fast .none false).spi.spiOn = true ∧ (spi .fast .none false).spi.spiBusy = false := by decide

theorem witness_SpiAnswersArriveInOrder :
    (card [] [] [1#8, 2#8]).spi.spiOn = true ∧ (card [] [] [1#8, 2#8]).spi.spiBusy = false ∧
    (card [] [] [1#8, 2#8]).inputs.spiIn = 1#8 :: [2#8] := by decide

theorem witness_SpiTxBlockSendsItsFirstByte :
    (Instr.spiTxBlock 0x200#32 1#32).wf (card [] [⟨0x200, 1⟩] []).cfg = true ∧
    (card [] [⟨0x200, 1⟩] []).spi.spiOn = true ∧ (card [] [⟨0x200, 1⟩] []).spi.spiBusy = false ∧
    (0x200#32).toNat + (1#32).toNat ≤ 2 ^ (card [] [⟨0x200, 1⟩] []).cfg.addrW ∧
    (card [] [⟨0x200, 1⟩] []).admits (0x200#32).toNat = true ∧ (card [] [⟨0x200, 1⟩] []).admits (0x201#32).toNat = false ∧
    2 ^ (card [] [⟨0x200, 1⟩] []).cfg.addrW < (0x200#32).toNat + (0xFFFFFE01#32).toNat := by decide

theorem witness_SpiRxBlockStoresItsFirstByte :
    (Instr.spiRxBlock 0xFFFFFFFF#32 1#32).wf (card digits [⟨0xFFFFFFFF, 1⟩] []).cfg = true ∧
    (card digits [⟨0xFFFFFFFF, 1⟩] []).spi.spiOn = true ∧ (card digits [⟨0xFFFFFFFF, 1⟩] []).spi.spiBusy = false ∧
    (card digits [⟨0xFFFFFFFF, 1⟩] []).mem.wf = true ∧
    (0xFFFFFFFF#32).toNat + (1#32).toNat ≤ 2 ^ (card digits [⟨0xFFFFFFFF, 1⟩] []).cfg.addrW ∧
    (card digits [⟨0xFFFFFFFF, 1⟩] []).admits (0xFFFFFFFF#32).toNat = true ∧
    (card digits [⟨0xFFFFFFFF, 1⟩] []).admits (0xFFFFFFFE#32).toNat = false ∧
    2 ^ (card digits [⟨0xFFFFFFFF, 1⟩] []).cfg.addrW < (0xFFFFFFFF#32).toNat + (2#32).toNat := by decide

theorem witness_SpiTxBlockSendsEveryByte :
    (Instr.spiTxBlock 0x106#32 3#32).wf (card digits [⟨0x106, 3⟩] []).cfg = true ∧
    (card digits [⟨0x106, 3⟩] []).spi.spiOn = true ∧ (card digits [⟨0x106, 3⟩] []).spi.spiBusy = false ∧
    3#32 ≠ 0#32 ∧ (0x106#32).toNat + (3#32).toNat ≤ 2 ^ (card digits [⟨0x106, 3⟩] []).cfg.addrW ∧
    ∀ k, k < 3 → (card digits [⟨0x106, 3⟩] []).admits (0x106 + k) = true := by decide

theorem witness_SpiRxBlockStoresEveryAnswer :
    (Instr.spiRxBlock 0x107#32 2#32).wf (card digits [⟨0x107, 2⟩] [0#8, 9#8, 5#8]).cfg = true ∧
    (card digits [⟨0x107, 2⟩] [0#8, 9#8, 5#8]).spi.spiOn = true ∧
    (card digits [⟨0x107, 2⟩] [0#8, 9#8, 5#8]).spi.spiBusy = false ∧
    (card digits [⟨0x107, 2⟩] [0#8, 9#8, 5#8]).mem.wf = true ∧ 2#32 ≠ 0#32 ∧
    (0x107#32).toNat + (2#32).toNat ≤ 2 ^ (card digits [⟨0x107, 2⟩] [0#8, 9#8, 5#8]).cfg.addrW ∧
    (∀ k, k < 2 → (card digits [⟨0x107, 2⟩] [0#8, 9#8, 5#8]).admits (0x107 + k) = true) ∧
    (card digits [⟨0x107, 2⟩] [0#8, 9#8, 5#8]).inputs.spiIn = [0#8, 9#8] ++ [5#8] ∧
    [0#8, 9#8].length = (2#32).toNat := by decide

theorem witness_SpiSetSpeedWritesThePreset :
    (spi .slow .card0 false).spi.spiOn = true ∧ (spi .slow .card0 false).spi.spiBusy = false ∧
    State.reset.spi.spiOn = false ∧ (spi .slow .card0 true).spi.spiOn = true ∧
    (spi .slow .card0 true).spi.spiBusy = true := by decide

theorem witness_SlowPresetIsSlower :
    Config.wf { Config.full .wide32 with spiRefClk := 8000000 } = true ∧ 0 < 8000000 := by decide

/-- A step that grows the SPI output. -/
theorem witness_SpiOutputOnlyGrows :
    (resultState (step { running [.cmd ⟨0xAB52#32, 0#32, 0#32⟩] [.run] with spi := ⟨true, .slow, .none, false⟩ })).map
      (fun s => s.spiOut) = some [.exchange ⟨false, false, .slow, 0xAB#8⟩] := by decide

theorem witness_ParallelInitConfiguresTheTransport :
    State.reset.cfg.hasParallel = true ∧
    (under { Config.full .wide32 with hasParallel := false }).cfg.hasParallel = false := by decide

theorem witness_HandshakeEdgesBecomePending : State.reset.cfg.hasParallel = true := by decide

/-- A delivery that may take place with and without nesting, and one that may not for each reason. -/
theorem witness_DeliveryEntersTheHandler :
    (pendingAtn .excluded true).pending .edgeAtn = true ∧ (pendingAtn .excluded true).enabled .edgeAtn = true ∧
    (pendingAtn .excluded true).env.cpuIe = true ∧ (pendingAtn .excluded true).stack = [] ∧
    (pendingAtn .admitted true).cfg.irqNesting = .admitted ∧
    State.reset.pending .edgeAtn = false ∧ State.reset.enabled .parHs = false ∧
    (pendingAtn .admitted false).env.cpuIe = false ∧ (pendingAtn .excluded true).cfg.irqNesting = .excluded ∧
    (inHandler []).stack ≠ [] := by decide

theorem witness_HandlerEndResumesTheContext :
    (inHandler []).run.active = none ∧ (inHandler []).line = none ∧ (inHandler [.halt]).line = some .halt ∧
    (inHandler []).stack = ⟨.main, 3, 5#32, some (.delay 60)⟩ :: [] := by decide

theorem witness_OnlyDeliveryInterruptsAContext :
    (resultState (step { pendingAtn .admitted true with sched := ⟨[.deliver .edgeAtn], .caller⟩ })).map
      (fun t => decide ((pendingAtn .admitted true).stack.length < t.stack.length)) = some true := by decide

/-- Each kind in the middle and at its last byte, and one byte below and above the admitted ones. -/
theorem witness_BlockCommandsTakeTheirNextByte :
    (∀ k ∈ [Block.crc7 0#8, .crc16 0#16, .spiTx, .spiRx], ∀ at' ∈ [(0x100, 9), (0x108, 1)],
      (inBlock k at'.1 at'.2).run.active = some (.block k at'.1 at'.2) ∧ 0 < at'.2 ∧
      (inBlock k at'.1 at'.2).admits at'.1 = true ∧ (inBlock k at'.1 at'.2).mem.wf = true) ∧
    (inBlock .spiTx 0x109 1).run.active = some (.block .spiTx 0x109 1) ∧
    (inBlock .spiTx 0x109 1).admits 0x109 = false ∧ (inBlock .spiRx 0xFF 2).admits 0xFF = false := by decide

/-- Next states in which each field has changed, by one of its commands. -/
theorem witness_FieldsChangeOnlyByTheirCommands :
    (resultState (exec (.startTimeout 3#24) State.reset)).map (fun t => decide (t.timeout ≠ State.reset.timeout)) =
      some true ∧
    (resultState (exec (.setAtn false) (bus high high true))).map (fun t => (t.out.atn, t.irq.pendAtn)) =
      some (false, true) ∧
    (resultState (exec (.setClockIrq true) State.reset)).map (fun t => t.irq.enClock) = some true ∧
    (resultState (exec (.spiInit .fast) State.reset)).map (fun t => (t.spi.spiOn, t.spi.spiSpeed)) =
      some (true, .fast) ∧
    (resultState (exec (.spiTxBlock 0#32 2#32) (card [] [⟨0, 2⟩] []))).map (fun t => t.spi.spiBusy) = some true ∧
    (resultState (exec .parallelInit State.reset)).map (fun t => t.par.parOn) = some true ∧
    (inBlock .spiTx 0x108 1).run.active ≠ none ∧
    (resultState (contextStep (inBlock .spiTx 0x108 1))).map (fun t => t.spi.spiBusy) = some false ∧
    (resultState (contextStep (inBlock .spiTx 0x107 2))).map (fun t => t.spi.spiBusy) = some true := by decide

/-- Each clause: the first byte of a receive, length 0, a command that stores nothing, a later byte of a receive, and the
caller's store to an admitted byte, and to one that is not. -/
theorem witness_OnlyReceivesAndCallerStoresWriteMemory :
    (resultState (exec (.spiRxBlock 0x100#32 1#32) (card digits [⟨0x100, 1⟩] [9#8]))).map
      (fun t => (t.readByte 0x100, t.readByte 0x101)) = some (9#8, 0x32#8) ∧
    (resultState (exec (.spiRxBlock 0x100#32 0#32) (card digits [] []))).map (fun t => t.readByte 0x100) =
      some 0x31#8 ∧
    (resultState (exec (.spiTxByte 1#8) (card digits [] []))).map (fun t => t.readByte 0x100) = some 0x31#8 ∧
    (inBlock .spiRx 0x107 2).run.active ≠ none ∧
    (resultState (contextStep (inBlock .spiRx 0x107 2))).map (fun t => (t.readByte 0x107, t.readByte 0x108)) =
      some (0x5A#8, 0x39#8) ∧
    (inBlock .spiRx 0x107 2).admits 0x108 = true ∧ (inBlock .spiRx 0x107 2).mem.wf = true ∧
    (resultState (move (.store 0x108 0#8) (inBlock .spiRx 0x107 2))).map
      (fun t => (t.readByte 0x108, t.readByte 0x107)) = some (0#8, 0x38#8) ∧
    (inBlock .spiRx 0x107 2).admits 0x109 = false ∧
    (resultState (step { inBlock .spiRx 0x107 2 with sched := ⟨[.store 0x109 7#8], .caller⟩ })).map
      (fun t => t.readByte 0x109) = some 0#8 := by decide

theorem witness_ConfigurationNeverChanges :
    (resultState (step (running [.label] [.run]))).map (fun t => t.run.pc) = some 1 := by decide

theorem witness_ResetLeavesTheTable : 255 < 2 ^ (Config.full .narrow8).tickW := by decide

theorem witness_ResetMeetsTheInvariant :
    ({ Launch.default with mem := digits } : Launch).mem.wf = true ∧
    ∀ c ∈ ({ Launch.default with mem := digits } : Launch).mem, c.1 < 2 ^ Launch.default.cfg.addrW := by decide

/-- A state a run reaches, in the middle of an SPI block command of the main path, with a handler above it. -/
def deep : State :=
  { card digits [⟨0x100, 9⟩] [] with
    spi := ⟨true, .slow, .card0, true⟩
    run := ⟨.handler .edgeClock, 0, 0#32, none⟩
    stack := [⟨.main, 2, 0#32, some (.block .spiTx 0x102 7)⟩] }

theorem witness_StepKeepsTheInvariant : deep.Inv ∧ ∃ t, step deep = .next t := by
  refine ⟨?_, _, rfl⟩
  constructor <;> decide

end Sys2Proof.Tests
end

section
/-!
PROOFS. The check of the configuration before a step (spec/00_scope.md R11).
-/

namespace Sys2Proof

/-- The clauses of a well-formed configuration (spec/00_scope.md R11, and log 2 for the table of ticks). -/
theorem Config.wf_iff {cfg : Config} :
    cfg.wf = true ↔ cfg.tickW = cfg.arch.tickW ∧ cfg.addrW = cfg.arch.addrW ∧ cfg.toMax = cfg.arch.toMax ∧
      cfg.spiDivFast < cfg.spiDivSlow ∧ 0 < cfg.spiDivFast ∧ ∀ entry ∈ cfg.toTicks, entry.2 ≤ cfg.toMax := by
  simp only [Config.wf, Bool.and_eq_true, decide_eq_true_eq, List.all_eq_true, and_assoc]

end Sys2Proof

namespace Sys2Proof.Machine

/-- A launch that is refused has no step (spec/60_exceptions.md R231). -/
theorem step_of_launchRefusal {s : State} {r : Refusal} (h : launchRefusal s.cfg s.progs = some r) :
    step s = .refused r := by
  simp only [step, machineStep, h]

/-- An ill-formed configuration refuses the launch, whatever the programs are. -/
theorem launchRefusal_of_illFormed {cfg : Config} (h : cfg.wf = false) (progs : Programs) :
    launchRefusal cfg progs = some (.configIllFormed cfg) :=
  if_pos h

/-- Settles O9: a well-formed configuration meets every clause of R11, so one that fails a clause is ill-formed, and
the launch, hence the step, is refused for it. -/
theorem illFormedConfigurationsAreRefused : Obligations.IllFormedConfigurationsAreRefused := by
  intro s hclause
  have hwf : s.cfg.wf = false := by
    refine Bool.eq_false_iff.mpr fun hwf => ?_
    obtain ⟨htick, haddr, hmax, hslow, hfast, -⟩ := Config.wf_iff.mp hwf
    rcases hclause with h | h | h | h | h
    · exact h htick
    · exact h haddr
    · exact h hmax
    · exact Nat.not_lt.mpr h hslow
    · exact hfast.ne' h
  exact step_of_launchRefusal (launchRefusal_of_illFormed hwf s.progs)

end Sys2Proof.Machine
end

section
/-!
PROOFS. What the decoder refuses (spec/30_encoding.md R95, R97 to R99), one lemma for each of its checks, and what
issuing a refused word answers.
-/

namespace Sys2Proof

open Sys2Proof.Claims

/-! ### The opcode map -/

/-- An opcode selects no row exactly when every row has another (spec/30_encoding.md R97). -/
theorem Mnemonic.ofOp_eq_none_iff {op : BitVec 8} : Mnemonic.ofOp op = none ↔ ∀ m : Mnemonic, m.op ≠ op := by
  simp [Mnemonic.ofOp, Mnemonic.mem_all]

/-- The unassigned opcodes, as ranges (spec/30_encoding.md R97). -/
theorem Mnemonic.ofOp_eq_none_iff_ranges {op : BitVec 8} :
    Mnemonic.ofOp op = none ↔ op.toNat ≤ 0x0F ∨ (0x14 ≤ op.toNat ∧ op.toNat ≤ 0x1F) ∨
      (0x25 ≤ op.toNat ∧ op.toNat ≤ 0x2F) ∨ (0x32 ≤ op.toNat ∧ op.toNat ≤ 0x3F) ∨
      (0x44 ≤ op.toNat ∧ op.toNat ≤ 0x4F) ∨ (0x57 ≤ op.toNat ∧ op.toNat ≤ 0x5F) ∨ 0x61 ≤ op.toNat := by
  have hrows : Mnemonic.ofOp op = none ↔ ∀ m ∈ Mnemonic.all, m.op.toNat ≠ op.toNat := by
    simp only [Mnemonic.ofOp_eq_none_iff, Mnemonic.mem_all, forall_const, ne_eq, BitVec.toNat_inj]
  simp only [hrows, Mnemonic.all, List.forall_mem_cons, List.not_mem_nil, false_imp_iff, implies_true, and_true,
    Mnemonic.op, BitVec.toNat_ofNat]
  omega

/-! ### Reserved bits -/

/-- A format fixes the opcode and the reserved bits (spec/30_encoding.md R82 to R91, R94). -/
theorem Format.mask_eq_reservedBits (f : Format) : f.mask = 0xFF#32 ||| reservedBits f := by cases f <;> decide

/-- The reserved bits of a row's fixed value are 0 (spec/30_encoding.md R94, column match). -/
theorem Mnemonic.matchWord_reservedBits (m : Mnemonic) : m.matchWord &&& reservedBits m.format = 0#32 := by
  cases m <;> decide

/-- The low byte of a word is its opcode (spec/30_encoding.md R81). -/
theorem and_lowByte (w0 : Word) : w0 &&& 0xFF#32 = (opField w0).setWidth 32 := by
  apply BitVec.eq_of_toNat_eq
  rw [BitVec.toNat_setWidth_of_le (by decide), opField, BitVec.extractLsb'_toNat]
  exact Nat.and_two_pow_sub_one_eq_mod w0.toNat 8

/-- A word with a row's opcode has the row's fixed bits exactly when none of its reserved bits is set
(spec/30_encoding.md R94, R98). -/
theorem and_mask_eq_matchWord_iff {w0 : Word} {m : Mnemonic} (hop : opField w0 = m.op) :
    w0 &&& m.format.mask = m.matchWord ↔ w0 &&& reservedBits m.format = 0#32 := by
  have hsplit : w0 &&& m.format.mask = m.matchWord ||| (w0 &&& reservedBits m.format) := by
    rw [Format.mask_eq_reservedBits, BitVec.and_or_distrib_left, and_lowByte, hop, Mnemonic.matchWord]
  rw [hsplit]
  constructor
  · intro h
    have hres := congrArg (· &&& reservedBits m.format) h
    simpa [BitVec.and_or_distrib_right, BitVec.and_assoc, Mnemonic.matchWord_reservedBits] using hres
  · intro h
    rw [h, BitVec.or_zero]

/-- Format `T` has no reserved bit, so a word of one of its rows has the row's fixed bits (spec/30_encoding.md R85). -/
theorem and_mask_eq_matchWord_of_time {w0 : Word} {m : Mnemonic} (hop : opField w0 = m.op) (hm : m.format = .t) :
    w0 &&& m.format.mask = m.matchWord :=
  (and_mask_eq_matchWord_iff hop).mpr (by rw [hm]; exact BitVec.and_zero)

/-! ### The decoder's checks, in their order (spec/30_encoding.md R95) -/

section Checks

variable {cfg : Config} {w : Words} {m : Mnemonic}

/-- The first check alone answers `ILLEGAL_COMMAND` (spec/30_encoding.md R97). -/
theorem decode_eq_illegalCommand_iff :
    decode cfg w = .error .illegalCommand ↔ Mnemonic.ofOp (opField w.w0) = none := by
  cases hrow : Mnemonic.ofOp (opField w.w0) with
  | none => simp only [decode, hrow]
  | some m =>
    simp only [decode, hrow, reduceCtorEq, iff_false]
    split_ifs <;> exact nofun

/-- The second check (spec/30_encoding.md R98). -/
theorem decode_of_reservedBit (hop : opField w.w0 = m.op) (hres : w.w0 &&& m.format.mask ≠ m.matchWord) :
    decode cfg w = .error .reservedField := by
  simp only [decode, hop, Mnemonic.ofOp_op, if_pos hres]

variable (hop : opField w.w0 = m.op) (hmatch : w.w0 &&& m.format.mask = m.matchWord)
include hop hmatch

/-- The third check (spec/30_encoding.md R93). -/
theorem decode_of_wideAddress (hblock : m.format.isBlock = true) (harch : cfg.arch = .narrow8)
    (haddr : w.w1.extractLsb' 16 16 ≠ 0#16) : decode cfg w = .error .operandRange := by
  simp only [decode, hop, Mnemonic.ofOp_op]
  rw [if_neg (not_not.mpr hmatch), if_pos ⟨hblock, harch, haddr⟩]

/-- The fourth check (spec/30_encoding.md R99). -/
theorem decode_of_delayOnNarrow (hdelay : m = .delayUs ∨ m = .delayMs) (harch : cfg.arch = .narrow8) :
    decode cfg w = .error .notOnArch := by
  have hone : m.format.isBlock = false := by rcases hdelay with rfl | rfl <;> rfl
  simp only [decode, hop, Mnemonic.ofOp_op]
  rw [if_neg (not_not.mpr hmatch), if_neg (fun h => by simp [hone] at h), if_pos ⟨hdelay, harch⟩]

/-- The fifth check (spec/30_encoding.md R99). -/
theorem decode_of_timeoutOutOfRange (htimeout : m = .startTimeout)
    (hrange : imm24Field w.w0 = 0#24 ∨ cfg.toMax < (imm24Field w.w0).toNat) :
    decode cfg w = .error .operandRange := by
  subst htimeout
  simp only [decode, hop, Mnemonic.ofOp_op]
  rw [if_neg (not_not.mpr hmatch), if_neg (fun h => nomatch h.1), if_neg (fun h => by simp at h),
    if_pos ⟨trivial, hrange⟩]

end Checks

end Sys2Proof

namespace Sys2Proof.Machine

open Sys2Proof.Claims

/-- A word the decoder refuses is refused when it is handed to the block (spec/60_exceptions.md R232). -/
theorem issue_of_decode_error {w : Words} {s : State} {e : DecodeError} (h : decode s.cfg w = .error e) :
    issue w s = .refused (refusalOf w e) := by
  simp only [issue, h]

/-- Settles O2: the first check of the decoder is the only one that answers `ILLEGAL_COMMAND`, and the opcodes of no row
are the listed ranges. -/
theorem unassignedOpcodesAreIllegal : Obligations.UnassignedOpcodesAreIllegal := by
  refine ⟨fun s w => ?_, fun s w h => issue_of_decode_error h, fun s w1 w2 => ?_⟩
  · rw [decode_eq_illegalCommand_iff, Mnemonic.ofOp_eq_none_iff_ranges]
  · have hzero : Mnemonic.ofOp (opField 0#32) = none := by decide
    exact issue_of_decode_error (w := ⟨0#32, w1, w2⟩) (decode_eq_illegalCommand_iff.mpr hzero)

/-- Settles O3: a reserved bit that is set keeps the word from its row's fixed bits. -/
theorem reservedBitsAreRefused : Obligations.ReservedBitsAreRefused := by
  intro s w m hop hbit
  have hrefused : decode s.cfg w = .error .reservedField :=
    decode_of_reservedBit hop (mt (and_mask_eq_matchWord_iff hop).mp hbit)
  exact ⟨hrefused, issue_of_decode_error hrefused⟩

/-- Settles O4: each case passes the decoder's checks before its own. -/
theorem operandsOutOfRangeAreRefused : Obligations.OperandsOutOfRangeAreRefused := by
  refine ⟨fun s w hop hrange => ?_, fun s w m hblock hop hres harch haddr => ?_, fun s w hop harch => ?_⟩
  · have hop : opField w.w0 = Mnemonic.startTimeout.op := hop
    exact issue_of_decode_error
      (decode_of_timeoutOutOfRange hop (and_mask_eq_matchWord_of_time hop rfl) rfl hrange)
  · exact issue_of_decode_error
      (decode_of_wideAddress hop ((and_mask_eq_matchWord_iff hop).mpr hres) hblock harch haddr)
  · obtain ⟨m, hdelay, hop⟩ : ∃ m : Mnemonic, (m = .delayUs ∨ m = .delayMs) ∧ opField w.w0 = m.op :=
      hop.elim (fun h => ⟨.delayUs, .inl rfl, h⟩) (fun h => ⟨.delayMs, .inr rfl, h⟩)
    have htime : m.format = .t := by rcases hdelay with rfl | rfl <;> rfl
    exact issue_of_decode_error
      (decode_of_delayOnNarrow hop (and_mask_eq_matchWord_of_time hop htime) hdelay harch)

end Sys2Proof.Machine
end

section
/-!
PROOFS. The operand `res` of a harness line (spec/30_encoding.md R105): the accumulator field of the built word and its
other bits.
-/

namespace Sys2Proof.Machine

/-! ### A word with one field replaced -/

section Replace

variable {n : Nat} {mask : Word} {lsb : Nat} (w0 : Word) (field : BitVec n)

/-- A replaced field reads back, where the mask clears its place. -/
theorem extractLsb'_and_or_placed (hfit : lsb + n ≤ 32) (hclear : mask.extractLsb' lsb n = 0#n) :
    ((w0 &&& mask) ||| placed field lsb).extractLsb' lsb n = field := by
  ext k hk
  have hbit : mask.getLsbD (lsb + k) = false := by
    simpa [hk] using congrArg (BitVec.getLsbD · k) hclear
  simp [placed_getLsbD field lsb (lsb + k) (by omega), hbit, hk]

/-- A bit outside a replaced field is as it was, where the mask keeps it. -/
theorem getLsbD_and_or_placed {k : Nat} (hout : k < lsb ∨ lsb + n ≤ k) (hkeep : k < 32 → mask.getLsbD k = true) :
    ((w0 &&& mask) ||| placed field lsb).getLsbD k = w0.getLsbD k := by
  by_cases hk : k < 32
  · have hfield : (placed field lsb).getLsbD k = false := by
      rw [placed_getLsbD field lsb k hk]
      rcases hout with h | h
      · simp [Nat.not_le.mpr h]
      · simp [BitVec.getLsbD_of_ge field (k - lsb) (by omega)]
    simp [hkeep hk, hfield]
  · simp [BitVec.getLsbD_of_ge _ k (Nat.not_lt.mp hk)]

end Replace

/-! ### The words built from `res` -/

theorem acc8Field_withAcc8 (w0 res : Word) : acc8Field (withAcc8 w0 res) = res.extractLsb' 0 8 :=
  extractLsb'_and_or_placed w0 _ (by decide) (by decide)

theorem withAcc8_getLsbD_other (w0 res : Word) {k : Nat} (hout : k < 16 ∨ 24 ≤ k) :
    (withAcc8 w0 res).getLsbD k = w0.getLsbD k :=
  getLsbD_and_or_placed w0 _ hout fun hk => by
    have hkeep : ∀ k < 32, k < 16 ∨ 24 ≤ k → (0xFF00FFFF#32).getLsbD k = true := by decide
    exact hkeep k hk hout

theorem acc16Field_withAcc16 (w0 res : Word) : acc16Field (withAcc16 w0 res) = res.extractLsb' 0 16 :=
  extractLsb'_and_or_placed w0 _ (by decide) (by decide)

theorem withAcc16_getLsbD_other (w0 res : Word) {k : Nat} (hout : k < 16) :
    (withAcc16 w0 res).getLsbD k = w0.getLsbD k :=
  getLsbD_and_or_placed w0 _ (.inl hout) fun _ => by
    have hkeep : ∀ k < 16, (0x0000FFFF#32).getLsbD k = true := by decide
    exact hkeep k hout

/-- The words of a CRC-7 command take `res[7:0]`. -/
theorem wordsWithRes_crc7 {w : Words}
    (hop : opField w.w0 = Mnemonic.crc7Update.op ∨ opField w.w0 = Mnemonic.crc7Block.op) (res : Word) :
    wordsWithRes w res = ⟨withAcc8 w.w0 res, w.w1, w.w2⟩ := by
  rcases hop with hop | hop <;> simp only [wordsWithRes, hop, Mnemonic.ofOp_op]

/-- The words of a CRC-16 command take `res[15:0]`. -/
theorem wordsWithRes_crc16 {w : Words}
    (hop : opField w.w0 = Mnemonic.crc16Update.op ∨ opField w.w0 = Mnemonic.crc16Block.op) (res : Word) :
    wordsWithRes w res = ⟨withAcc16 w.w0 res, w.w1, w.w2⟩ := by
  rcases hop with hop | hop <;> simp only [wordsWithRes, hop, Mnemonic.ofOp_op]

/-- A context at a line with the operand `res` issues the words built from its `res` (spec/30_encoding.md R105). -/
theorem contextStep_cmdRes {s : State} {w : Words} (hidle : s.run.active = none) (hline : s.line = some (.cmdRes w)) :
    contextStep s = issue (wordsWithRes w s.run.res) s := by
  simp only [contextStep, hidle, hline, runLine]

/-- Settles O8: the word is built with the accumulator field replaced and every other bit kept. -/
theorem resStandsForTheLastResult : Obligations.ResStandsForTheLastResult := by
  intro s w hidle hline
  rw [contextStep_cmdRes hidle hline]
  constructor
  · intro hop
    exact ⟨withAcc8 w.w0 s.run.res, by rw [wordsWithRes_crc7 hop], acc8Field_withAcc8 _ _,
      fun _ => withAcc8_getLsbD_other _ _⟩
  · intro hop
    exact ⟨withAcc16 w.w0 s.run.res, by rw [wordsWithRes_crc16 hop], acc16Field_withAcc16 _ _,
      fun _ => withAcc16_getLsbD_other _ _⟩

end Sys2Proof.Machine
end

section
/-!
PROOFS. Tick arithmetic (spec/40_timeout.md R110), for every width.
-/

namespace Sys2Proof.Machine

section TickDelta

variable {w : Nat} (a b : BitVec w)

/-- The difference read as signed, with the sign decided at half the modulus. -/
theorem tickDelta_eq_ite (hw : 0 < w) :
    tickDelta a b = if (a - b).toNat < 2 ^ (w - 1) then ((a - b).toNat : Int) else (a - b).toNat - 2 ^ w := by
  have hhalf : 2 * (a - b).toNat < 2 ^ w ↔ (a - b).toNat < 2 ^ (w - 1) := by
    rw [← Nat.two_pow_pred_mul_two hw, Nat.mul_comm, Nat.mul_lt_mul_right Nat.two_pos]
  simp only [tickDelta, BitVec.toInt_eq_toNat_cond, hhalf, Nat.cast_pow, Nat.cast_ofNat]

theorem neg_two_pow_le_tickDelta : -(2 ^ (w - 1) : Int) ≤ tickDelta a b := BitVec.le_toInt (a - b)

theorem tickDelta_le_two_pow_sub_one : tickDelta a b ≤ 2 ^ (w - 1) - 1 := Int.le_sub_one_of_lt BitVec.toInt_lt

theorem tickAfter_iff : tickAfter a b = true ↔ 0 < tickDelta a b := decide_eq_true_iff

/-- Between a tick value and the one `k` ticks later lie `k` ticks, modulo `2 ^ w`. -/
theorem tickDelta_add_ofNat (k : Nat) : tickDelta (b + BitVec.ofNat w k) b = (k : Int).bmod (2 ^ w) := by
  rw [tickDelta, BitVec.add_comm, BitVec.add_sub_cancel, BitVec.toInt_ofNat']

/-- A count below half the modulus is its own signed residue, so no wraparound shows in it. -/
theorem tickDelta_add_ofNat_of_lt (hw : 0 < w) {k : Nat} (hk : k < 2 ^ (w - 1)) :
    tickDelta (b + BitVec.ofNat w k) b = k := by
  have hpow : 2 ^ (w - 1) * 2 = 2 ^ w := Nat.two_pow_pred_mul_two hw
  rw [tickDelta_add_ofNat]
  exact Int.bmod_eq_of_le_mul_two (by omega) (by omega)

end TickDelta

/-- Settles O11: each clause is one of the rules above. -/
theorem tickDeltaIsTheSignedDifference : Obligations.TickDeltaIsTheSignedDifference := by
  intro w a b hw
  exact ⟨tickDelta_eq_ite a b hw, neg_two_pow_le_tickDelta a b, tickDelta_le_two_pow_sub_one a b, tickAfter_iff a b,
    fun _ hk => tickDelta_add_ofNat_of_lt b hw hk, tickDelta_add_ofNat b⟩

end Sys2Proof.Machine
end

section
/-!
PROOFS. What completing a command leaves (spec/30_encoding.md R104), and the meaning of `has_timed_out`
(spec/40_timeout.md R116).
-/

namespace Sys2Proof.Machine

open Sys2Proof.Claims

/-- Completing writes the running context alone. -/
theorem State.complete_eq_doneWith (s : State) (r : Word) : s.complete r = { s with run := doneWith s r } := rfl

theorem wordOfBit_eq_ite (b : Bool) : wordOfBit b = if b = true then 1#32 else 0#32 := by cases b <;> rfl

theorem exec_hasTimedOut (s : State) : exec .hasTimedOut s = .next (s.complete (wordOfBit s.timeout.toExp)) := rfl

/-- Settles O14: the command completes with the level as its result, and completing writes the context alone. -/
theorem hasTimedOutReturnsTheLevel : Obligations.HasTimedOutReturnsTheLevel := by
  refine ⟨by decide, fun s => ?_⟩
  rw [exec_hasTimedOut, State.complete_eq_doneWith, wordOfBit_eq_ite]

end Sys2Proof.Machine
end

section
/-!
PROOFS. The bus lines (spec/41_bus_lines.md): the bits of the snapshot, what driving a line leaves, and the meanings of
the commands that read and drive lines.
-/

namespace Sys2Proof.Machine

open Sys2Proof.Claims

/-! ### The snapshot (R131) -/

theorem wordOfBit_getLsbD (b : Bool) (k : Nat) : (wordOfBit b).getLsbD k = (decide (k = 0) && b) := by
  cases b <;> simp [wordOfBit_eq_ite, BitVec.getLsbD_one]

/-- A bit moved to place `n` of a word stands there alone. -/
theorem wordOfBit_shiftLeft_getLsbD (b : Bool) {n k : Nat} (hn : n < 32) :
    (wordOfBit b <<< n).getLsbD k = (decide (k = n) && b) := by
  rw [BitVec.getLsbD_shiftLeft, wordOfBit_getLsbD]
  rcases Nat.lt_trichotomy k n with h | h | h
  · simp [h, h.ne]
  · simp [h, hn]
  · simp [h.ne', Nat.sub_ne_zero_of_lt h]

/-- Each bit of the snapshot is the wire that has its place. -/
theorem State.snapshot_getLsbD (s : State) (k : Nat) :
    s.snapshot.getLsbD k = ((decide (k = 0) && s.wire .atn) || (decide (k = 1) && s.wire .clock) ||
      (decide (k = 2) && s.wire .data) || (decide (k = 3) && s.wire .srq)) := by
  simp only [State.snapshot, BitVec.getLsbD_or, wordOfBit_getLsbD, wordOfBit_shiftLeft_getLsbD, Nat.reduceLT]

theorem State.snapshot_getLsbD_snapshotBit (s : State) (l : BusLine) :
    s.snapshot.getLsbD (snapshotBit l) = s.wire l := by
  rw [State.snapshot_getLsbD]
  cases l <;> simp [snapshotBit]

theorem State.snapshot_getLsbD_of_ge (s : State) {k : Nat} (hk : 4 ≤ k) : s.snapshot.getLsbD k = false := by
  simp [State.snapshot_getLsbD, show k ≠ 0 by omega, show k ≠ 1 by omega, show k ≠ 2 by omega,
    show k ≠ 3 by omega]

theorem exec_iecBusRead (s : State) : exec .iecBusRead s = .next { s with run := doneWith s s.snapshot } := rfl

/-- Settles O18: the result is the snapshot, whose bit of each line is its wire. -/
theorem busReadSamplesTheWires : Obligations.BusReadSamplesTheWires := by
  refine ⟨by decide, fun s => ⟨s.snapshot, exec_iecBusRead s, ?_⟩⟩
  exact ⟨s.snapshot_getLsbD_snapshotBit .atn, s.snapshot_getLsbD_snapshotBit .clock,
    s.snapshot_getLsbD_snapshotBit .data, s.snapshot_getLsbD_snapshotBit .srq, fun _ => s.snapshot_getLsbD_of_ge⟩

/-! ### Driving a line (R133 to R136) -/

/-- The interrupt state after a check of a line's wire, by whether it has `changed`: a change makes the armed source of
the line pending, and DATA and SRQ have no source (spec/42_edge_irq.md R152). -/
def IrqUnit.afterWire (irq : IrqUnit) (line : BusLine) (changed : Bool) : IrqUnit :=
  match line with
  | .atn => { irq with pendAtn := irq.pendAtn || (irq.enAtn && changed) }
  | .clock => { irq with pendClock := irq.pendClock || (irq.enClock && changed) }
  | .data => irq
  | .srq => irq

theorem IrqUnit.afterWire_false (irq : IrqUnit) (l : BusLine) : irq.afterWire l false = irq := by
  cases l <;> simp [IrqUnit.afterWire]

/-- An edge writes the pending bit of its line's armed source alone. -/
theorem State.edge_eq_afterWire (s : State) (l : BusLine) : s.edge l = { s with irq := s.irq.afterWire l true } := by
  have hirq : (s.edge l).irq = s.irq.afterWire l true := by
    rw [State.edge_irq]
    cases l <;> simp [IrqUnit.afterWire]
  have hframe : s.edge l = { s with irq := (s.edge l).irq } := by
    cases l with
    | atn | clock => simp only [State.edge]; split <;> rfl
    | data | srq => rfl
  rw [hframe, hirq]

/-- An edge check writes the pending bit of its line alone, by whether the wire has left its old level. -/
theorem State.edgeIfChanged_eq_afterWire (s : State) (l : BusLine) (old : Bool) :
    s.edgeIfChanged l old = { s with irq := s.irq.afterWire l (decide (s.wire l ≠ old)) } := by
  by_cases h : s.wire l = old
  · simp [State.edgeIfChanged, h, IrqUnit.afterWire_false]
  · simp [State.edgeIfChanged, h, State.edge_eq_afterWire]

/-- The wire of a driven line, by the wired-AND with what the other devices put on it (spec/10_state.md R26). -/
theorem State.driveLine_wire_same (s : State) (l : BusLine) (v : Bool) :
    (s.driveLine l v).wire l = (v && lineBit s.env.ext l) := by
  simp [State.wire]

/-- Driving a line writes its `OUT` bit, and the pending bit of its source by whether the wire changes. -/
theorem State.driveLine_eq_afterWire (s : State) (l : BusLine) (v : Bool) :
    s.driveLine l v = { s with
      out := withLineBit s.out l v
      irq := s.irq.afterWire l (decide ((v && lineBit s.env.ext l) ≠ s.wire l)) } := by
  rw [← State.driveLine_wire_same, State.driveLine, State.edgeIfChanged_eq_afterWire]
  rfl

theorem exec_lineCommand (l : BusLine) (v : Bool) (s : State) :
    exec (lineCommand l v) s = .next ((s.driveLine l v).complete 0#32) := by
  cases l <;> rfl

/-- The next state of a command that drives a line, field by field. -/
theorem exec_lineCommand_eq_afterWire (l : BusLine) (v : Bool) (s : State) :
    exec (lineCommand l v) s = .next { s with
      out := withLineBit s.out l v
      irq := s.irq.afterWire l (decide ((v && lineBit s.env.ext l) ≠ s.wire l))
      run := doneWith s 0#32 } := by
  rw [exec_lineCommand, State.complete_eq_doneWith, State.driveLine_eq_afterWire]
  rfl

/-- Settles O19: driving ATN or CLOCK makes its armed source pending exactly when the wire changes. -/
theorem setAtnAndSetClockDriveTheirLine : Obligations.SetAtnAndSetClockDriveTheirLine := fun s v =>
  ⟨exec_lineCommand_eq_afterWire .atn v s, exec_lineCommand_eq_afterWire .clock v s,
    by cases v <;> decide, by cases v <;> decide⟩

/-- Settles O20: driving DATA or SRQ leaves every pending bit, as neither line has a source. -/
theorem setDataAndSetSrqDriveTheirLine : Obligations.SetDataAndSetSrqDriveTheirLine := fun s v =>
  ⟨exec_lineCommand_eq_afterWire .data v s, exec_lineCommand_eq_afterWire .srq v s,
    by cases v <;> decide, by cases v <;> decide⟩

end Sys2Proof.Machine
end

section
/-!
PROOFS. The CRC updates of one byte (spec/43_crc.md R174, R175): the meanings of the commands, their words, and the bit
of the CRC-7 accumulator that is ignored.
-/

namespace Sys2Proof

/-- A word without the bits of a mask is 0 in every field the mask covers. -/
theorem extractLsb'_eq_zero_of_and_eq_zero {n : Nat} {w0 mask : Word} {lsb : Nat}
    (hcover : mask.extractLsb' lsb n = BitVec.allOnes n) (h : w0 &&& mask = 0#32) :
    w0.extractLsb' lsb n = 0#n := by
  have hfield := congrArg (BitVec.extractLsb' lsb n) h
  rwa [BitVec.extractLsb'_and, hcover, BitVec.and_allOnes, BitVec.extractLsb'_zero] at hfield

theorem encode_crc7Update (acc data : Byte) :
    encode (.crc7Update acc data) = ⟨placed acc 16 ||| placed data 8 ||| 0x40#32, 0#32, 0#32⟩ :=
  congrArg (Words.mk · 0#32 0#32) (BitVec.or_comm _ _)

theorem encode_crc16Update (acc : BitVec 16) (data : Byte) :
    encode (.crc16Update acc data) = ⟨placed acc 16 ||| placed data 8 ||| 0x41#32, 0#32, 0#32⟩ :=
  congrArg (Words.mk · 0#32 0#32) (BitVec.or_comm _ _)

end Sys2Proof

namespace Sys2Proof.Machine

open Sys2Proof.Claims

theorem exec_crc7Update (acc data : Byte) (s : State) :
    exec (.crc7Update acc data) s = .next (s.complete (zext32 (crc7Upd acc data))) := rfl

theorem exec_crc16Update (acc : BitVec 16) (data : Byte) (s : State) :
    exec (.crc16Update acc data) s = .next (s.complete (zext32 (crc16Upd acc data))) := rfl

/-- The CRC-7 register has 7 bits, so bit 7 of the result is 0 (spec/43_crc.md R170). -/
theorem crc7Upd_le (acc d : Byte) : (crc7Upd acc d).toNat ≤ 0x7F := by
  rw [crc7Upd, BitVec.toNat_setWidth_of_le (by decide)]
  exact Nat.le_of_lt_succ (BitVec.isLt _)

/-- Only the low 7 bits of the accumulator enter the CRC-7 register (spec/43_crc.md R170). -/
theorem crc7Upd_and_lowBits (acc d : Byte) : crc7Upd (acc &&& 0x7F#8) d = crc7Upd acc d := by
  have hlow : (acc &&& 0x7F#8).setWidth 7 = acc.setWidth 7 := by
    have hones : (0x7F#8).setWidth 7 = BitVec.allOnes 7 := by decide
    rw [BitVec.setWidth_and, hones, BitVec.and_allOnes]
  simp only [crc7Upd, hlow]

/-- Settles O26: completing writes the context alone, and bits 31 to 24 are the reserved bits of the word. -/
theorem crc7UpdateReturnsTheUpdate : Obligations.Crc7UpdateReturnsTheUpdate := by
  intro s acc data
  refine ⟨?_, crc7Upd_le acc data, crc7Upd_and_lowBits acc data, fun w hop hbits => ?_, encode_crc7Update acc data⟩
  · rw [exec_crc7Update, State.complete_eq_doneWith, zext32]
  · have hreserved : w.w0 &&& reservedBits Mnemonic.crc7Update.format ≠ 0#32 :=
      mt (extractLsb'_eq_zero_of_and_eq_zero (by decide)) hbits
    exact (reservedBitsAreRefused s w .crc7Update hop hreserved).2

/-- Settles O27: completing writes the context alone. -/
theorem crc16UpdateReturnsTheUpdate : Obligations.Crc16UpdateReturnsTheUpdate := by
  intro s acc data
  refine ⟨?_, encode_crc16Update acc data⟩
  rw [exec_crc16Update, State.complete_eq_doneWith, zext32]

end Sys2Proof.Machine
end

section
/-!
PROOFS. The SPI Transport (spec/44_spi.md): the checks its commands share (R191, R192), and the commands that write its
preset and its selector (R199, R200, R205).
-/

namespace Sys2Proof.Machine

open Sys2Proof.Claims

/-! ### The checks of the SPI commands (R191, R192) -/

section SpiReady

variable {i : Instr} {s : State} {meaning : Result}

theorem inRange_of_wf (hwf : i.wf s.cfg = true) : inRange i s meaning = meaning := if_pos hwf

theorem spiReady_of_off (hoff : s.spi.spiOn = false) :
    spiReady i s meaning = .fault (.spiUninit (encode i).w0) :=
  if_pos hoff

theorem spiReady_of_busy (hon : s.spi.spiOn = true) (hbusy : s.spi.spiBusy = true) :
    spiReady i s meaning = .fault (.spiReentry (encode i).w0 s.run.owner) := by
  simp only [spiReady, hon, hbusy, Bool.true_eq_false, if_false, if_true]

theorem spiReady_of_idle (hon : s.spi.spiOn = true) (hidle : s.spi.spiBusy = false) :
    spiReady i s meaning = meaning := by
  simp only [spiReady, hon, hidle, Bool.true_eq_false, Bool.false_eq_true, if_false]

/-- Every admitted SPI command but `spi_init` makes the two checks before anything else. -/
theorem exec_eq_spiReady (hwf : i.wf s.cfg = true) (hspi : needsSpiInit i = true) :
    ∃ meaning, exec i s = spiReady i s meaning := by
  cases i with
  | spiSelectDevice _ | spiTxByte _ | spiRxByte | spiSetSpeed _ => exact ⟨_, rfl⟩
  | spiTxBlock _ _ | spiRxBlock _ _ => exact ⟨_, inRange_of_wf hwf⟩
  | _ => cases hspi

end SpiReady

/-- `spi_init` makes the check of R192 alone, as it is the command that turns the controller on. -/
theorem exec_spiInit_of_busy {s : State} (hbusy : s.spi.spiBusy = true) (p : Speed) :
    exec (.spiInit p) s = .fault (.spiReentry (encode (.spiInit p)).w0 s.run.owner) :=
  if_pos hbusy

/-- Settles O34: the check of R191 is the first one. -/
theorem spiCommandsNeedInit : Obligations.SpiCommandsNeedInit := by
  intro s i hwf hspi hoff
  obtain ⟨meaning, hexec⟩ := exec_eq_spiReady hwf hspi
  exact hexec.trans (spiReady_of_off hoff)

/-- Settles O35: `spi_init` makes the check of R192 at once, every other command after that of R191. -/
theorem spiCommandsNeedASingleCaller : Obligations.SpiCommandsNeedASingleCaller := by
  rintro s i hwf hbusy (⟨p, rfl⟩ | ⟨hspi, hon⟩)
  · exact exec_spiInit_of_busy hbusy p
  · obtain ⟨meaning, hexec⟩ := exec_eq_spiReady hwf hspi
    exact hexec.trans (spiReady_of_busy hon hbusy)

/-! ### The preset and the selector (R199, R200, R205) -/

/-- A selection exchanges no byte: it adds at most a change of the chip-select lines to the SPI output (R194). -/
theorem State.selectDevice_spiEvents (s : State) (dev : Selector) : (s.selectDevice dev).spiEvents = s.spiEvents := by
  simp only [State.spiEvents, State.selectDevice_spiOut]
  split
  · rfl
  · simp only [List.filterMap_append, List.filterMap_cons, List.filterMap_nil, List.append_nil]

theorem exec_spiInit_of_idle {s : State} (hidle : s.spi.spiBusy = false) (p : Speed) :
    exec (.spiInit p) s = .next (((s.turnSpiOn.setSpeed p).selectDevice .none).complete 0#32) :=
  if_neg (Bool.eq_false_iff.mp hidle)

theorem exec_spiSelectDevice_of_idle {s : State} (hon : s.spi.spiOn = true) (hidle : s.spi.spiBusy = false)
    (dev : Selector) : exec (.spiSelectDevice dev) s = .next ((s.selectDevice dev).complete 0#32) :=
  spiReady_of_idle hon hidle

theorem exec_spiSetSpeed_of_idle {s : State} (hon : s.spi.spiOn = true) (hidle : s.spi.spiBusy = false) (p : Speed) :
    exec (.spiSetSpeed p) s = .next ((s.setSpeed p).complete 0#32) :=
  spiReady_of_idle hon hidle

/-- Settles O36: the controller is turned on, then the preset and the selector `NONE` are written; `SPI_BUSY` stays 0. -/
theorem spiInitConfiguresAndDeselects : Obligations.SpiInitConfiguresAndDeselects := by
  intro s p
  refine ⟨fun hidle => ⟨((s.turnSpiOn.setSpeed p).selectDevice .none).spiOut, ?_, ?_⟩,
    fun hbusy => exec_spiInit_of_busy hbusy p, by decide, by decide⟩
  · have hspi : ((s.turnSpiOn.setSpeed p).selectDevice .none).spi = ⟨true, p, .none, false⟩ := by simp [hidle]
    rw [exec_spiInit_of_idle hidle, State.complete_eq_doneWith, ← hspi]
    rfl
  · exact (s.turnSpiOn.setSpeed p).selectDevice_spiEvents .none

/-- Settles O37: the faults are those of every SPI command, and a selection writes the selector and the record of the
chip-select lines. -/
theorem spiSelectDeviceWritesTheSelector : Obligations.SpiSelectDeviceWritesTheSelector := by
  refine ⟨fun s dev => ⟨fun hon hidle => ⟨(s.selectDevice dev).spiOut, ?_, s.selectDevice_spiEvents dev⟩,
    spiCommandsNeedInit s (.spiSelectDevice dev) rfl rfl,
    fun hon hbusy => spiCommandsNeedASingleCaller s (.spiSelectDevice dev) rfl hbusy (.inr ⟨rfl, hon⟩)⟩, by decide⟩
  rw [exec_spiSelectDevice_of_idle hon hidle, State.complete_eq_doneWith]
  rfl

/-- Settles O46: the faults are those of every SPI command, and the preset is the one field of the block written. -/
theorem spiSetSpeedWritesThePreset : Obligations.SpiSetSpeedWritesThePreset := by
  intro s p
  refine ⟨fun hon hidle => ?_, spiCommandsNeedInit s (.spiSetSpeed p) rfl rfl,
    fun hon hbusy => spiCommandsNeedASingleCaller s (.spiSetSpeed p) rfl hbusy (.inr ⟨rfl, hon⟩), by decide, by decide⟩
  rw [exec_spiSetSpeed_of_idle hon hidle, State.complete_eq_doneWith]
  rfl

end Sys2Proof.Machine
end

section
/-!
PROOFS. The edge check of the sensed handshake line (spec/45_parallel.md R223).
-/

namespace Sys2Proof.Machine

/-- The edge check takes the level of `HS_IN` as seen, and makes `PAR_HS` pending by whether that level is new and the
source is enabled. -/
theorem State.hsEdge_eq_pendPar_hsPrev (s : State) : s.hsEdge = { s with
    irq := { s.irq with pendPar := s.irq.pendPar || (s.par.parEn && decide (s.env.hsIn ≠ s.par.hsPrev)) }
    par := { s.par with hsPrev := s.env.hsIn } } := by
  by_cases hsame : s.env.hsIn = s.par.hsPrev
  · simp [State.hsEdge, hsame]
  · cases hen : s.par.parEn with
    | false => simp [State.hsEdge, hsame, hen]
    | true => simp [State.hsEdge, hsame, hen, State.setPending]

/-- With the transport, the level the peer drives is checked for an edge at once (spec/45_parallel.md R223). -/
theorem State.setHsIn_of_parallel {s : State} (hpar : s.cfg.hasParallel = true) (level : Bool) :
    s.setHsIn level = State.hsEdge { s with env := { s.env with hsIn := level } } :=
  if_pos hpar

theorem move_hsIn (level : Bool) (s : State) : move (.hsIn level) s = .next (s.setHsIn level) := rfl

/-- Settles O50: the peer's level is written, then the edge check compares it with the level last seen. -/
theorem handshakeEdgesBecomePending : Obligations.HandshakeEdgesBecomePending := by
  intro s level hpar
  rw [move_hsIn, State.setHsIn_of_parallel hpar, State.hsEdge_eq_pendPar_hsPrev]

end Sys2Proof.Machine
end

section
/-!
PROOFS. Encoding and decoding are inverse (spec/30_encoding.md R96): fields read back from where they are placed, and
the operand bits of a decoded command are the bits of its word that its row leaves free.
-/

namespace Sys2Proof

/-! ### Fields of a word -/

/-- A field is placed where it was taken from: the word's own bits there, and no other. -/
theorem placed_extractLsb' (w0 : Word) (lsb n : Nat) :
    placed (w0.extractLsb' lsb n) lsb = w0 &&& placed (BitVec.allOnes n) lsb := by
  ext k hk
  by_cases hlsb : lsb ≤ k
  · simp [← BitVec.getLsbD_eq_getElem hk, placed_getLsbD _ _ _ hk, hlsb, Bool.and_comm]
  · simp [← BitVec.getLsbD_eq_getElem hk, placed_getLsbD _ _ _ hk, hlsb]

/-- A placed field reads back. -/
theorem extractLsb'_placed {n lsb : Nat} (field : BitVec n) (hfit : lsb + n ≤ 32) :
    (placed field lsb).extractLsb' lsb n = field := by
  ext k hk
  simp [placed_getLsbD field lsb (lsb + k) (by omega), hk]

/-- A field reads 0 where only a field at other places is placed. -/
theorem extractLsb'_placed_disjoint {n n' lsb lsb' : Nat} (field : BitVec n) (hfit : lsb' + n' ≤ 32)
    (hout : lsb' + n' ≤ lsb ∨ lsb + n ≤ lsb') : (placed field lsb).extractLsb' lsb' n' = 0#n' := by
  ext k hk
  rcases hout with h | h
  · simp [placed_getLsbD field lsb (lsb' + k) (by omega), show ¬lsb ≤ lsb' + k by omega]
  · simp [placed_getLsbD field lsb (lsb' + k) (by omega), BitVec.getLsbD_of_ge field (lsb' + k - lsb) (by omega)]

/-- A row's fixed bits have no operand: every field above the opcode reads 0 there. -/
theorem Mnemonic.extractLsb'_matchWord (m : Mnemonic) {lsb n : Nat} (h : 8 ≤ lsb) :
    m.matchWord.extractLsb' lsb n = 0#n := by
  ext k hk
  simp [Mnemonic.matchWord, BitVec.getLsbD_of_ge m.op (lsb + k) (by omega)]

/-- A field of an encoded command is that of its operand bits. -/
theorem extractLsb'_encode (i : Instr) {lsb n : Nat} (h : 8 ≤ lsb) :
    (encode i).w0.extractLsb' lsb n = i.operandBits.extractLsb' lsb n := by
  rw [encode_w0, BitVec.extractLsb'_or, Mnemonic.extractLsb'_matchWord _ h, BitVec.zero_or]

/-- The bit of a line or of a preset is a field of one bit. -/
theorem ofBool_vField (w0 : Word) : BitVec.ofBool (vField w0) = w0.extractLsb' 8 1 := by
  ext k hk
  obtain rfl : k = 0 := by omega
  simp [vField]

/-! ### A command read back from its words -/

/-- The line or preset bit of an encoded command is that of its operand bits. -/
theorem vField_encode (i : Instr) : vField (encode i).w0 = i.operandBits.getLsbD 8 := by
  have hmatch : i.mnemonic.matchWord.getLsbD 8 = false := by
    rw [Mnemonic.matchWord_getLsbD _ 8 (by decide), BitVec.getLsbD_of_ge _ 8 (Nat.le_refl 8)]
  rw [vField, encode_w0, BitVec.getLsbD_or, hmatch, Bool.false_or]

theorem placed_ofBool_getLsbD (v : Bool) : (placed (BitVec.ofBool v) 8).getLsbD 8 = v := by
  rw [placed_getLsbD _ 8 8 (by decide)]
  simp

/-- The fields of a row, taken from the words of one of its commands, give that command. -/
theorem command_encode (i : Instr) : i.mnemonic.command (encode i) = i := by
  cases i with
  | startTimeout n | delayUs n | delayMs n =>
    simp [Instr.mnemonic, Mnemonic.command, imm24Field, extractLsb'_encode, Instr.operandBits, extractLsb'_placed]
  | setAtn v | setClock v | setData v | setSrq v | setAtnIrq v | setClockIrq v | spiInit p | spiSetSpeed p =>
    simp only [Instr.mnemonic, Mnemonic.command, vField_encode, Instr.operandBits, placed_ofBool_getLsbD,
      speedOfBit_bitOfSpeed]
  | spiSelectDevice dev =>
    simp [Instr.mnemonic, Mnemonic.command, selField, extractLsb'_encode, Instr.operandBits, extractLsb'_placed]
  | spiTxByte data =>
    simp [Instr.mnemonic, Mnemonic.command, dataField, extractLsb'_encode, Instr.operandBits, extractLsb'_placed]
  | crc7Update acc data | crc16Update acc data =>
    simp [Instr.mnemonic, Mnemonic.command, acc8Field, acc16Field, dataField, extractLsb'_encode, Instr.operandBits,
      BitVec.extractLsb'_or, extractLsb'_placed, extractLsb'_placed_disjoint]
  | crc7Block acc addr len =>
    have hacc : acc8Field (encode (.crc7Block acc addr len)).w0 = acc :=
      (extractLsb'_encode _ (by decide)).trans (extractLsb'_placed _ (by decide))
    exact congrArg (Instr.crc7Block · addr len) hacc
  | crc16Block acc addr len =>
    have hacc : acc16Field (encode (.crc16Block acc addr len)).w0 = acc :=
      (extractLsb'_encode _ (by decide)).trans (extractLsb'_placed _ (by decide))
    exact congrArg (Instr.crc16Block · addr len) hacc
  | hasTimedOut | iecBusRead | spiRxByte | spiTxBlock addr len | spiRxBlock addr len | parallelInit => rfl

/-! ### Admission, as the decoder checks it and as the command says it -/

/-- The upper half of an address word is 0 exactly when the address is below `2 ^ 16` (spec/30_encoding.md R93). -/
theorem extractLsb'_upper_eq_zero_iff (addr : Word) : addr.extractLsb' 16 16 = 0#16 ↔ addr.toNat < 2 ^ 16 := by
  have hlt : addr.toNat / 2 ^ 16 < 2 ^ 16 := by omega
  rw [← BitVec.toNat_inj, BitVec.extractLsb'_toNat, Nat.shiftRight_eq_div_pow, Nat.mod_eq_of_lt hlt]
  simp only [BitVec.toNat_ofNat, Nat.zero_mod]
  omega

/-- A command with the fields of a word is admitted exactly when the word passes the decoder's three operand checks
(spec/30_encoding.md R93, R95, R99). -/
theorem command_wf_iff (cfg : Config) (m : Mnemonic) (w : Words) :
    (m.command w).wf cfg = true ↔
      ¬(m.format.isBlock = true ∧ cfg.arch = .narrow8 ∧ w.w1.extractLsb' 16 16 ≠ 0#16) ∧
      ¬((m = .delayUs ∨ m = .delayMs) ∧ cfg.arch = .narrow8) ∧
      ¬(m = .startTimeout ∧ (imm24Field w.w0 = 0#24 ∨ cfg.toMax < (imm24Field w.w0).toNat)) := by
  cases m with
  | crc7Block | crc16Block | spiTxBlock | spiRxBlock =>
    simp [Mnemonic.command, Instr.wf, Mnemonic.format, Format.isBlock, extractLsb'_upper_eq_zero_iff, imp_iff_not_or]
  | startTimeout | delayUs | delayMs => simp [Mnemonic.command, Instr.wf, Mnemonic.format, Format.isBlock]
  | _ => simp [Mnemonic.command, Instr.wf, Mnemonic.format, Format.isBlock]

/-- A word decodes to a command exactly when its opcode selects a row, its reserved bits are 0 and the command with the
row's fields is admitted (spec/30_encoding.md R95). -/
theorem decode_eq_ok_iff {cfg : Config} {w : Words} {i : Instr} :
    decode cfg w = .ok i ↔ ∃ m, Mnemonic.ofOp (opField w.w0) = some m ∧ w.w0 &&& m.format.mask = m.matchWord ∧
      i = m.command w ∧ i.wf cfg = true := by
  constructor
  · intro h
    obtain ⟨m, hrow, hmatch, hblock, hdelay, htimeout, rfl⟩ := decode_ok h
    exact ⟨m, hrow, hmatch, rfl, (command_wf_iff cfg m w).mpr ⟨hblock, hdelay, htimeout⟩⟩
  · rintro ⟨m, hrow, hmatch, rfl, hwf⟩
    obtain ⟨hblock, hdelay, htimeout⟩ := (command_wf_iff cfg m w).mp hwf
    simp only [decode, hrow]
    rw [if_neg (not_not.mpr hmatch), if_neg hblock, if_neg hdelay, if_neg htimeout]

/-! ### A word rebuilt from its command -/

/-- The operand bits of a row's command are the bits of its word that the row does not fix. -/
theorem command_operandBits (m : Mnemonic) (w : Words) :
    (m.command w).operandBits = w.w0 &&& ~~~m.format.mask := by
  have hplace : ∀ lsb n, placed (w.w0.extractLsb' lsb n) lsb = w.w0 &&& placed (BitVec.allOnes n) lsb :=
    placed_extractLsb' w.w0
  cases m with
  | startTimeout | delayUs | delayMs => exact (hplace 8 24).trans (congrArg (w.w0 &&& ·) (by decide))
  | setAtn | setClock | setData | setSrq | setAtnIrq | setClockIrq =>
    rw [Mnemonic.command, Instr.operandBits, ofBool_vField, hplace]; exact congrArg (w.w0 &&& ·) (by decide)
  | spiInit | spiSetSpeed =>
    rw [Mnemonic.command, Instr.operandBits, bitOfSpeed_speedOfBit, ofBool_vField, hplace]
    exact congrArg (w.w0 &&& ·) (by decide)
  | spiSelectDevice =>
    rw [Mnemonic.command, Instr.operandBits, bitsOfSelector_selectorOfBits, selField, hplace]
    exact congrArg (w.w0 &&& ·) (by decide)
  | spiTxByte => exact (hplace 8 8).trans (congrArg (w.w0 &&& ·) (by decide))
  | crc7Update =>
    rw [Mnemonic.command, Instr.operandBits, acc8Field, dataField, hplace, hplace, ← BitVec.and_or_distrib_left]
    exact congrArg (w.w0 &&& ·) (by decide)
  | crc16Update =>
    rw [Mnemonic.command, Instr.operandBits, acc16Field, dataField, hplace, hplace, ← BitVec.and_or_distrib_left]
    exact congrArg (w.w0 &&& ·) (by decide)
  | crc7Block => exact (hplace 16 8).trans (congrArg (w.w0 &&& ·) (by decide))
  | crc16Block => exact (hplace 16 16).trans (congrArg (w.w0 &&& ·) (by decide))
  | hasTimedOut | iecBusRead | spiRxByte | spiTxBlock | spiRxBlock | parallelInit => exact BitVec.and_zero.symm

/-- A word with its row's fixed bits is the command word of its command. -/
theorem encode_command_w0 {m : Mnemonic} {w : Words} (hmatch : w.w0 &&& m.format.mask = m.matchWord) :
    (encode (m.command w)).w0 = w.w0 := by
  rw [encode_w0, Mnemonic.command_mnemonic, command_operandBits, ← hmatch, ← BitVec.and_or_distrib_left,
    BitVec.or_not_self, BitVec.and_allOnes]

/-- The words of a command carry its row's opcode and no reserved bit (spec/30_encoding.md R94). -/
theorem rowMatch (i : Instr) : Laws.RowMatch.Statement i := by
  have hfree : i.operandBits = (encode i).w0 &&& ~~~i.mnemonic.format.mask := by
    rw [← command_operandBits, command_encode]
  refine Laws.RowMatch.of_operandBits ?_
  rw [hfree, BitVec.and_assoc, BitVec.not_and_self]
  exact BitVec.and_zero

/-- The extension words of a block command are those of its word. -/
theorem encode_command_extension {m : Mnemonic} (hblock : m.format.isBlock = true) (w : Words) :
    (encode (m.command w)).w1 = w.w1 ∧ (encode (m.command w)).w2 = w.w2 := by
  cases m with
  | crc7Block | crc16Block | spiTxBlock | spiRxBlock => exact ⟨rfl, rfl⟩
  | _ => cases hblock

/-- Decoding undoes encoding on admitted commands. -/
theorem decode_encode {cfg : Config} {i : Instr} (hwf : i.wf cfg = true) : decode cfg (encode i) = .ok i := by
  obtain ⟨hop, hmatch⟩ := rowMatch i
  exact decode_eq_ok_iff.mpr ⟨i.mnemonic, by rw [hop, Mnemonic.ofOp_op], hmatch, (command_encode i).symm, hwf⟩

/-- Settles O1: both directions, through the operand bits of a row. -/
theorem encodeAndDecodeAgree : Obligations.EncodeAndDecodeAgree := by
  refine ⟨encode_w0, fun _ _ _ _ => ⟨rfl, rfl, rfl, rfl, rfl, rfl, rfl, rfl⟩, fun _ _ => decode_encode,
    fun cfg w i h => ?_⟩
  obtain ⟨m, -, hmatch, rfl, hwf⟩ := decode_eq_ok_iff.mp h
  have hw0 : (encode (m.command w)).w0 = w.w0 := encode_command_w0 hmatch
  refine ⟨hwf, hw0, fun hblock => ?_⟩
  rw [Mnemonic.command_mnemonic] at hblock
  obtain ⟨hw1, hw2⟩ := encode_command_extension hblock w
  exact congr (congr (congrArg Words.mk hw0) hw1) hw2

/-- Settles O5: each word is evaluated. -/
theorem listedWordsDecode : Obligations.ListedWordsDecode := by
  unfold Obligations.ListedWordsDecode
  decide

end Sys2Proof
end

section
/-!
PROOFS. No step looks at the polarity flags (spec/41_bus_lines.md R137): each operation of a step commutes with a change
of the flags.
-/

namespace Sys2Proof.Machine

open Sys2Proof.Claims

variable (inv : Lines) (s : State)

/-! ### Guards and block commands -/

theorem wf_withInv (cfg : Config) (i : Instr) : i.wf { cfg with inv := inv } = i.wf cfg := by cases i <;> rfl

theorem provided_withInv (cfg : Config) (i : Instr) : i.provided { cfg with inv := inv } = i.provided cfg := by
  cases i <;> rfl

/-- A change of the next state passes into the branches of an outcome. -/
theorem mapNext_ite {c : Prop} [Decidable c] (f : State → State) (a b : Result) :
    mapNext f (if c then a else b) = if c then mapNext f a else mapNext f b :=
  apply_ite (mapNext f) c a b

section Guards

variable {inv s} {i : Instr} {meaning meaning' : Result} (h : meaning' = mapNext (withInv inv) meaning)
include h

theorem inRange_withInv : inRange i (withInv inv s) meaning' = mapNext (withInv inv) (inRange i s meaning) := by
  simp only [inRange, mapNext_ite, ← h]
  rw [withInv, wf_withInv]
  rfl

theorem onWide_withInv : onWide i (withInv inv s) meaning' = mapNext (withInv inv) (onWide i s meaning) := by
  simp only [onWide, mapNext_ite, ← h]
  rw [withInv, wf_withInv]
  rfl

theorem whenWired_withInv : whenWired i (withInv inv s) meaning' = mapNext (withInv inv) (whenWired i s meaning) := by
  simp only [whenWired, mapNext_ite, ← h]
  rw [withInv, provided_withInv]
  rfl

theorem whenParallel_withInv :
    whenParallel i (withInv inv s) meaning' = mapNext (withInv inv) (whenParallel i s meaning) := by
  simp only [whenParallel, mapNext_ite, ← h]
  rw [withInv, provided_withInv]
  rfl

theorem spiReady_withInv : spiReady i (withInv inv s) meaning' = mapNext (withInv inv) (spiReady i s meaning) := by
  simp only [spiReady, mapNext_ite, ← h]
  rfl

end Guards

theorem blockByte_withInv (k : Block) (addr left : Nat) :
    blockByte k addr left (withInv inv s) = mapNext (withInv inv) (blockByte k addr left s) := by
  cases left with
  | zero => rfl
  | succ rest =>
    simp only [blockByte, mapNext_ite]
    cases k <;> rfl

theorem startBlock_withInv (i : Instr) (k : Block) (addr len : Word) :
    startBlock i k addr len (withInv inv s) = mapNext (withInv inv) (startBlock i k addr len s) := by
  have hmark : k.markBusy true (withInv inv s) = withInv inv (k.markBusy true s) := by cases k <;> rfl
  simp only [startBlock, mapNext_ite, hmark, blockByte_withInv]
  rfl

/-! ### Commands and contexts -/

theorem State.driveLine_withInv (l : BusLine) (v : Bool) :
    (withInv inv s).driveLine l v = withInv inv (s.driveLine l v) := by
  rw [State.driveLine_eq_afterWire, State.driveLine_eq_afterWire]
  rfl

theorem startDelay_withInv (usecs : Nat) : startDelay usecs (withInv inv s) = withInv inv (startDelay usecs s) := by
  simp only [startDelay, apply_ite (withInv inv)]
  rfl

theorem State.armAtn_withInv (v : Bool) : (withInv inv s).armAtn v = withInv inv (s.armAtn v) := by cases v <;> rfl

theorem State.armClock_withInv (v : Bool) : (withInv inv s).armClock v = withInv inv (s.armClock v) := by
  cases v <;> rfl

theorem exec_withInv (i : Instr) : exec i (withInv inv s) = mapNext (withInv inv) (exec i s) := by
  have hline : ∀ l v, exec (lineCommand l v) (withInv inv s) = mapNext (withInv inv) (exec (lineCommand l v) s) := by
    intro l v
    rw [exec_lineCommand, exec_lineCommand, State.driveLine_withInv]
    rfl
  cases i with
  | startTimeout usecs => exact inRange_withInv rfl
  | delayUs n | delayMs n => exact onWide_withInv (congrArg Host.Outcome.next (startDelay_withInv inv s _))
  | setAtn v => exact hline .atn v
  | setClock v => exact hline .clock v
  | setData v => exact hline .data v
  | setSrq v => exact hline .srq v
  | setAtnIrq v =>
    exact whenWired_withInv (by rw [State.armAtn_withInv]; rfl)
  | setClockIrq v =>
    exact whenWired_withInv (by rw [State.armClock_withInv]; rfl)
  | crc7Block acc addr len | crc16Block acc addr len => exact inRange_withInv (startBlock_withInv inv s _ _ addr len)
  | spiTxBlock addr len | spiRxBlock addr len =>
    exact inRange_withInv (spiReady_withInv (startBlock_withInv inv s _ _ addr len))
  | spiInit p =>
    simp only [exec, execSpiInit, mapNext_ite]
    rfl
  | spiSelectDevice dev => exact spiReady_withInv rfl
  | spiTxByte data => exact spiReady_withInv rfl
  | spiRxByte => exact spiReady_withInv rfl
  | spiSetSpeed p => exact spiReady_withInv rfl
  | parallelInit => exact whenParallel_withInv rfl
  | hasTimedOut | iecBusRead | crc7Update acc data | crc16Update acc data => rfl

theorem issue_withInv (w : Words) : issue w (withInv inv s) = mapNext (withInv inv) (issue w s) := by
  simp only [issue, decode_congr (cfg := s.cfg) (cfg' := (withInv inv s).cfg) rfl rfl]
  cases decode s.cfg w with
  | ok i => exact exec_withInv inv s i
  | error e => rfl

theorem State.endContext_withInv : (withInv inv s).endContext = withInv inv s.endContext := by
  rcases hs : s.stack with - | ⟨c, rest⟩ <;> simp [State.endContext, withInv, hs]

theorem contextStep_withInv : contextStep (withInv inv s) = mapNext (withInv inv) (contextStep s) := by
  have hrun : (withInv inv s).run = s.run := rfl
  have hend : ∀ t, .next (withInv inv t).endContext = mapNext (withInv inv) (.next t.endContext) :=
    fun t => congrArg Host.Outcome.next (State.endContext_withInv inv t)
  simp only [contextStep, hrun]
  rcases s.run.active with - | ⟨left⟩ | ⟨k, addr, left⟩
  · rw [show (withInv inv s).line = s.line from rfl]
    rcases s.line with - | ⟨w⟩ | ⟨w⟩ | - | - | - | - | -
    case none | some.halt => exact hend s
    case some.cmd => exact issue_withInv inv s w
    case some.cmdRes => exact issue_withInv inv s _
    all_goals rfl
  · simp only [holdDelay, mapNext, apply_ite (withInv inv)]
    rfl
  · exact blockByte_withInv inv s k addr left

/-! ### Moves and the schedule -/

theorem State.mayDeliver_withInv (src : Source) : (withInv inv s).mayDeliver src = s.mayDeliver src := by
  cases src <;> rfl

theorem State.deliver_withInv (src : Source) : (withInv inv s).deliver src = withInv inv (s.deliver src) := by
  cases src <;> rfl

theorem State.setExt_withInv (levels : Lines) : (withInv inv s).setExt levels = withInv inv (s.setExt levels) := by
  simp only [State.setExt, State.edgeIfChanged_eq_afterWire]
  rfl

theorem State.setHsIn_withInv (level : Bool) : (withInv inv s).setHsIn level = withInv inv (s.setHsIn level) := by
  simp only [State.setHsIn, State.hsEdge_eq_pendPar_hsPrev, apply_ite (withInv inv)]
  rfl

theorem move_withInv (e : Event) : move e (withInv inv s) = mapNext (withInv inv) (move e s) := by
  cases e with
  | run => exact contextStep_withInv inv s
  | time => rfl
  | ext levels => exact congrArg Host.Outcome.next (State.setExt_withInv inv s levels)
  | hsIn level => exact congrArg Host.Outcome.next (State.setHsIn_withInv inv s level)
  | cpuIe enable => rfl
  | store addr v =>
    simp only [move, mapNext, State.callerStore, apply_ite (withInv inv)]
    rfl
  | deliver src =>
    simp only [move, mapNext, State.tryDeliver, State.mayDeliver_withInv, State.deliver_withInv,
      apply_ite (withInv inv)]

theorem defaultMove_withInv : defaultMove (withInv inv s) = mapNext (withInv inv) (defaultMove s) := by
  have hlist : (withInv inv s).deliverables = s.deliverables :=
    congrArg (List.filter · _) (funext (State.mayDeliver_withInv inv s))
  have hchoice : (withInv inv s).chooseSource = s.chooseSource := by
    simp only [State.chooseSource, hlist]
    rfl
  have hdraws : (withInv inv s).drawsAfterChoice = s.drawsAfterChoice := by
    simp only [State.drawsAfterChoice, hlist]
    rfl
  have hturn : (withInv inv s).sched = s.sched := rfl
  simp only [defaultMove, hturn, hchoice, hdraws]
  cases s.sched.turn with
  | time => rfl
  | caller =>
    cases s.chooseSource with
    | some src => cases src <;> rfl
    | none => exact contextStep_withInv inv (s.setTurn .time)

theorem interleave_withInv : interleave (withInv inv s) = mapNext (withInv inv) (interleave s) := by
  have hsched : (withInv inv s).sched = s.sched := rfl
  simp only [interleave, hsched]
  rcases s.sched.script with - | ⟨e, rest⟩
  · exact defaultMove_withInv inv s
  · exact move_withInv inv { s with sched := { s.sched with script := rest } } e

/-! ### The check before a step -/

theorem lineRefusal_withInv (cfg : Config) (owner : Owner) (n : Nat) (line : ProgLine) :
    lineRefusal { cfg with inv := inv } owner n line = lineRefusal cfg owner n line := by
  cases line with
  | cmd w | cmdRes w =>
    simp only [lineRefusal, decode_congr (cfg := cfg) (cfg' := { cfg with inv := inv }) rfl rfl, provided_withInv]
  | _ => rfl

theorem programRefusal_withInv (cfg : Config) (owner : Owner) (n : Nat) (p : List ProgLine) :
    programRefusal { cfg with inv := inv } owner n p = programRefusal cfg owner n p := by
  induction p generalizing n with
  | nil => rfl
  | cons line rest ih => simp only [programRefusal, lineRefusal_withInv, ih]

/-- A launch is refused or not whatever the flags are. -/
theorem launchRefusal_withInv {cfg : Config} {progs : Programs} (h : launchRefusal cfg progs = none) :
    launchRefusal { cfg with inv := inv } progs = none := by
  have hwf : cfg.wf = true := wf_of_launchRefusal h
  have hwf' : Config.wf { cfg with inv := inv } = true := hwf
  simpa only [launchRefusal, programRefusal_withInv, hwf, hwf', Bool.true_eq_false, if_false] using h

/-- Settles O22: the launch is refused under neither choice of flags, and the interleaving commutes with the change. -/
theorem stepIgnoresPolarity : Obligations.StepIgnoresPolarity := by
  intro s inv hlaunch
  have hlaunch' : launchRefusal (withInv inv s).cfg (withInv inv s).progs = none := launchRefusal_withInv inv hlaunch
  simp only [step, machineStep, hlaunch, hlaunch']
  exact interleave_withInv inv s

end Sys2Proof.Machine
end

section
/-!
PROOFS. What a command, a context and a move can do when they answer a next state: one inversion for the 23 commands, and
every step of the machine as a move of one agent.
-/

namespace Sys2Proof.Machine

open Sys2Proof.Claims

/-! ### Delays (spec/40_timeout.md R117, R118) -/

/-- A delay that starts writes the running context, the delays below it and the count of draws. -/
theorem startDelay_eq (usecs : Nat) (s : State) : startDelay usecs s = { s with
    run := if usecs = 0 then doneWith s 0#32 else busyWith s (.delay usecs)
    stack := (drawDelays s.stack s.inputs.draws).1
    inputs := { s.inputs with draws := (drawDelays s.stack s.inputs.draws).2 } } := by
  by_cases h : usecs = 0 <;> simp only [startDelay, h, if_true, if_false] <;> rfl

/-- The draws of a delay change delays in progress alone, and none grows (spec/40_timeout.md R122). -/
theorem drawDelays_delayDrawn (cs : List Context) (draws : Nat) :
    List.Forall₂ DelayDrawn cs (drawDelays cs draws).1 := by
  refine (drawDelays_spec cs draws).imp ?_
  rintro c c' (rfl | ⟨left, left', hleft, hle, rfl⟩)
  · by_cases hdelay : ∃ left, c'.active = some (.delay left)
    · obtain ⟨left, hleft⟩ := hdelay
      exact .inr ⟨left, left, hleft, Nat.le_refl left, by rw [← hleft]⟩
    · exact .inl ⟨not_exists.mp hdelay, rfl⟩
  · exact .inr ⟨left, left', hleft, hle, rfl⟩

theorem drawDelays_length (cs : List Context) (draws : Nat) : (drawDelays cs draws).1.length = cs.length :=
  (drawDelays_spec cs draws).length_eq.symm

/-! ### Block commands -/

/-- The command that issues a block command of some kind. -/
def blockCommand : Block → Word → Word → Instr
  | .crc7 acc, addr, len => .crc7Block acc addr len
  | .crc16 acc, addr, len => .crc16Block acc addr len
  | .spiTx, addr, len => .spiTxBlock addr len
  | .spiRx, addr, len => .spiRxBlock addr len

/-- A block command may be issued: its address is in range, and the SPI Transport is ready where it is used. -/
def Block.Ready (k : Block) (addr len : Word) (s : State) : Prop :=
  (blockCommand k addr len).wf s.cfg = true ∧ (k.isSpi = true → s.spi.spiOn = true ∧ s.spi.spiBusy = false)

theorem exec_blockCommand {k : Block} {addr len : Word} {s : State} (h : k.Ready addr len s) :
    exec (blockCommand k addr len) s = startBlock (blockCommand k addr len) k addr len s := by
  obtain ⟨hwf, hspi⟩ := h
  cases k with
  | crc7 acc | crc16 acc => exact inRange_of_wf hwf
  | spiTx | spiRx => exact (inRange_of_wf hwf).trans (spiReady_of_idle (hspi rfl).1 (hspi rfl).2)

theorem exec_blockCommand_next {k : Block} {addr len : Word} {s t : State}
    (h : exec (blockCommand k addr len) s = .next t) :
    k.Ready addr len s ∧ startBlock (blockCommand k addr len) k addr len s = .next t := by
  cases k with
  | crc7 acc | crc16 acc =>
    obtain ⟨hwf, h⟩ := inRange_next.mp h
    exact ⟨⟨hwf, nofun⟩, h⟩
  | spiTx | spiRx =>
    obtain ⟨hwf, h⟩ := inRange_next.mp h
    obtain ⟨hon, hidle, h⟩ := spiReady_next.mp h
    exact ⟨⟨hwf, fun _ => ⟨hon, hidle⟩⟩, h⟩

/-! ### The commands, by what they write -/

/-- What a command that answers a next state has done, and the guards it has passed. -/
inductive CommandStep (s : State) : Instr → State → Prop
  | reports (i : Instr) (r : Word) : CommandStep s i (s.complete r)
  | armsTimeout (usecs : BitVec 24) (hwf : (Instr.startTimeout usecs).wf s.cfg = true) :
      CommandStep s (.startTimeout usecs) ((s.armTimeout usecs.toNat).complete 0#32)
  | delays (i : Instr) (n : BitVec 24) (usecs : Nat) (hi : i = .delayUs n ∨ i = .delayMs n)
      (harch : s.cfg.arch = .wide32) (hle : usecs ≤ 1000 * (2 ^ 24 - 1)) : CommandStep s i (startDelay usecs s)
  | drivesLine (l : BusLine) (v : Bool) : CommandStep s (lineCommand l v) ((s.driveLine l v).complete 0#32)
  | armsAtn (v : Bool) (hwired : s.cfg.wiredAtn = true) :
      CommandStep s (.setAtnIrq v) ((s.armAtn v).complete 0#32)
  | armsClock (v : Bool) (hwired : s.cfg.wiredClock = true) :
      CommandStep s (.setClockIrq v) ((s.armClock v).complete 0#32)
  | startsBlock (k : Block) (addr len : Word) (t : State) (hready : k.Ready addr len s)
      (h : startBlock (blockCommand k addr len) k addr len s = .next t) : CommandStep s (blockCommand k addr len) t
  | initsSpi (p : Speed) (hidle : s.spi.spiBusy = false) :
      CommandStep s (.spiInit p) (((s.turnSpiOn.setSpeed p).selectDevice .none).complete 0#32)
  | selects (dev : Selector) : CommandStep s (.spiSelectDevice dev) ((s.selectDevice dev).complete 0#32)
  | setsSpeed (p : Speed) : CommandStep s (.spiSetSpeed p) ((s.setSpeed p).complete 0#32)
  | exchanges (i : Instr) (tx : Byte) (r : Word) : CommandStep s i ((s.exchanged tx).complete r)
  | initsParallel (hpar : s.cfg.hasParallel = true) :
      CommandStep s .parallelInit (s.initParallel.complete 0#32)

/-- A delay that answers a next state runs on `WIDE32` (spec/30_encoding.md R99). -/
theorem wide32_of_wf {cfg : Config} {i : Instr} {n : BitVec 24} (hi : i = .delayUs n ∨ i = .delayMs n)
    (hwf : i.wf cfg = true) : cfg.arch = .wide32 := by
  have hne : cfg.arch ≠ .narrow8 := by rcases hi with rfl | rfl <;> exact of_decide_eq_true hwf
  cases harch : cfg.arch with
  | narrow8 => exact absurd harch hne
  | wide32 => rfl

/-- The inversion of the commands' meanings. -/
theorem commandStep_of_exec {i : Instr} {s t : State} (h : exec i s = .next t) : CommandStep s i t := by
  have hline : ∀ l v, exec (lineCommand l v) s = .next t → CommandStep s (lineCommand l v) t := by
    intro l v h
    rw [exec_lineCommand] at h
    obtain rfl := Host.Outcome.next.inj h
    exact .drivesLine l v
  have hblock : ∀ k addr len, exec (blockCommand k addr len) s = .next t →
      CommandStep s (blockCommand k addr len) t := fun k addr len h =>
    (exec_blockCommand_next h).elim (.startsBlock k addr len t)
  have hlt : ∀ n : BitVec 24, n.toNat ≤ 2 ^ 24 - 1 := fun n => Nat.le_sub_one_of_lt n.isLt
  cases i with
  | hasTimedOut | iecBusRead | crc7Update acc data | crc16Update acc data =>
    obtain rfl := Host.Outcome.next.inj h
    exact .reports _ _
  | startTimeout usecs =>
    obtain ⟨hwf, h⟩ := inRange_next.mp h
    obtain rfl := Host.Outcome.next.inj h
    exact .armsTimeout usecs hwf
  | delayUs n =>
    obtain ⟨hwf, h⟩ := onWide_next.mp h
    obtain rfl := Host.Outcome.next.inj h
    exact .delays _ n _ (.inl rfl) (wide32_of_wf (.inl rfl) hwf) ((hlt n).trans (by decide))
  | delayMs n =>
    obtain ⟨hwf, h⟩ := onWide_next.mp h
    obtain rfl := Host.Outcome.next.inj h
    exact .delays _ n _ (.inr rfl) (wide32_of_wf (.inr rfl) hwf) (Nat.mul_le_mul_left 1000 (hlt n))
  | setAtn v => exact hline .atn v h
  | setClock v => exact hline .clock v h
  | setData v => exact hline .data v h
  | setSrq v => exact hline .srq v h
  | setAtnIrq v =>
    obtain ⟨hwired, h⟩ := whenWired_next.mp h
    obtain rfl := Host.Outcome.next.inj h
    exact .armsAtn v hwired
  | setClockIrq v =>
    obtain ⟨hwired, h⟩ := whenWired_next.mp h
    obtain rfl := Host.Outcome.next.inj h
    exact .armsClock v hwired
  | crc7Block acc addr len => exact hblock (.crc7 acc) addr len h
  | crc16Block acc addr len => exact hblock (.crc16 acc) addr len h
  | spiTxBlock addr len => exact hblock .spiTx addr len h
  | spiRxBlock addr len => exact hblock .spiRx addr len h
  | spiInit p =>
    cases hbusy : s.spi.spiBusy with
    | true => rw [exec_spiInit_of_busy hbusy] at h; cases h
    | false =>
      rw [exec_spiInit_of_idle hbusy] at h
      obtain rfl := Host.Outcome.next.inj h
      exact .initsSpi p hbusy
  | spiSelectDevice dev =>
    obtain ⟨-, -, h⟩ := spiReady_next.mp h
    obtain rfl := Host.Outcome.next.inj h
    exact .selects dev
  | spiTxByte data =>
    obtain ⟨-, -, h⟩ := spiReady_next.mp h
    obtain rfl := Host.Outcome.next.inj h
    exact .exchanges _ data _
  | spiRxByte =>
    obtain ⟨-, -, h⟩ := spiReady_next.mp h
    obtain rfl := Host.Outcome.next.inj h
    exact .exchanges _ fillByte _
  | spiSetSpeed p =>
    obtain ⟨-, -, h⟩ := spiReady_next.mp h
    obtain rfl := Host.Outcome.next.inj h
    exact .setsSpeed p
  | parallelInit =>
    obtain ⟨hpar, h⟩ := whenParallel_next.mp h
    obtain rfl := Host.Outcome.next.inj h
    exact .initsParallel hpar

/-! ### The steps of a context, by what they do -/

/-- What the step of a context that answers a next state has done. -/
inductive ContextStep (s : State) : State → Prop
  | takesByte (k : Block) (addr left : Nat) (t : State) (hactive : s.run.active = some (.block k addr left))
      (h : blockByte k addr left s = .next t) : ContextStep s t
  | holds (left : Nat) (hactive : s.run.active = some (.delay left)) : ContextStep s s
  | endsDelay (hactive : s.run.active = some (.delay 0)) : ContextStep s (s.complete 0#32)
  | endsProgram (hidle : s.run.active = none) : ContextStep s s.endContext
  | jumps (n : Nat) (hidle : s.run.active = none) : ContextStep s (s.jump n)
  | runs (i : Instr) (t : State) (hidle : s.run.active = none) (h : exec i s = .next t) : ContextStep s t

/-- The inversion of a context's step. -/
theorem contextStep_kind {s t : State} (h : contextStep s = .next t) : ContextStep s t := by
  obtain ⟨k, addr, left, hactive, h⟩ | ⟨left, hactive, rfl⟩ | ⟨hidle, h⟩ := contextStep_next h
  · exact .takesByte k addr left t hactive h
  · by_cases hleft : left = 0
    · subst hleft
      exact .endsDelay hactive
    · rw [holdDelay, if_neg hleft]
      exact .holds left hactive
  · obtain rfl | ⟨n, rfl⟩ | ⟨w, i, -, -, h⟩ := runLine_next h
    · exact .endsProgram hidle
    · exact .jumps n hidle
    · exact .runs i t hidle h

/-! ### The step of the machine as a move -/

/-- Delivery does not look at the schedule. -/
theorem State.mayDeliver_setTurn (s : State) (turn : Turn) (src : Source) :
    (s.setTurn turn).mayDeliver src = s.mayDeliver src := by
  cases src <;> rfl

theorem State.tryDeliver_of_mayDeliver {s : State} {src : Source} (h : s.mayDeliver src = true) :
    s.tryDeliver src = s.deliver src :=
  if_pos h

/-- Every step is a move of one agent under some schedule, up to the count of draws that the choice of a source uses. -/
theorem move_of_step {s t : State} (h : step s = .next t) :
    ∃ sched e u draws, move e { s with sched := sched } = .next u ∧
      t = { u with inputs := { u.inputs with draws := draws } } := by
  obtain ⟨-, ⟨e, rest, -, h⟩ | ⟨-, h⟩⟩ := step_next h
  · exact ⟨_, e, t, t.inputs.draws, h, rfl⟩
  · obtain ⟨-, rfl⟩ | ⟨-, src, hmay, rfl⟩ | ⟨-, -, h⟩ := defaultMove_next h
    · exact ⟨{ s.sched with turn := .caller }, .time, _, s.inputs.draws, rfl, rfl⟩
    · refine ⟨{ s.sched with turn := .time }, .deliver src, (s.setTurn .time).deliver src, s.drawsAfterChoice, ?_, ?_⟩
      · exact congrArg Host.Outcome.next (State.tryDeliver_of_mayDeliver ((s.mayDeliver_setTurn .time src).trans hmay))
      · cases src <;> rfl
    · exact ⟨_, .run, t, t.inputs.draws, h, rfl⟩

end Sys2Proof.Machine
end

section
/-!
PROOFS. Frames over all commands and all steps: what changes the configuration, memory, the SPI output, the stack and the
block's fields.
-/

namespace Sys2Proof.Machine

open Sys2Proof.Claims

/-! ### The configuration (spec/00_scope.md R10, spec/20_memory.md R68) -/

/-- What is fixed for a run stands in both states alike. -/
def SameLaunch (s t : State) : Prop := t.cfg = s.cfg ∧ t.progs = s.progs ∧ t.admitted = s.admitted

/-- What a command leaves in both states alike, besides. -/
def SameSurroundings (s t : State) : Prop :=
  t.cfg = s.cfg ∧ t.progs = s.progs ∧ t.env = s.env ∧ t.admitted = s.admitted ∧ t.sched = s.sched ∧
    t.run.owner = s.run.owner

theorem SameSurroundings.sameLaunch {s t : State} (h : SameSurroundings s t) : SameLaunch s t := by
  obtain ⟨hcfg, hprogs, -, hadmitted, -, -⟩ := h
  exact ⟨hcfg, hprogs, hadmitted⟩

theorem blockByte_sameSurroundings {k : Block} {addr left : Nat} {s t : State} (h : blockByte k addr left s = .next t) :
    SameSurroundings s t := by
  obtain ⟨hcfg, hprogs, -, -, -, -, hadmitted, henv, -, hsched, howner, -⟩ := blockByte_frame h
  exact ⟨hcfg, hprogs, henv, hadmitted, hsched, howner⟩

theorem startBlock_sameSurroundings {i : Instr} {k : Block} {addr len : Word} {s t : State}
    (h : startBlock i k addr len s = .next t) : SameSurroundings s t := by
  obtain ⟨hcfg, hprogs, -, -, -, -, hadmitted, henv, -, hsched, howner, -⟩ := startBlock_frame h
  exact ⟨hcfg, hprogs, henv, hadmitted, hsched, howner⟩

/-- The owner of the running context stays through the start of a delay. -/
theorem startDelay_owner (usecs : Nat) (s : State) : (startDelay usecs s).run.owner = s.run.owner := by
  rw [startDelay_eq]
  dsimp only
  split <;> rfl

theorem exec_sameSurroundings {i : Instr} {s t : State} (h : exec i s = .next t) : SameSurroundings s t := by
  cases commandStep_of_exec h with
  | startsBlock k addr len t _ h => exact startBlock_sameSurroundings h
  | delays i n usecs => exact ⟨by rw [startDelay_eq], by rw [startDelay_eq], by rw [startDelay_eq],
      by rw [startDelay_eq], by rw [startDelay_eq], startDelay_owner usecs s⟩
  | _ => simp [SameSurroundings]

theorem contextStep_sameLaunch {s t : State} (h : contextStep s = .next t) : SameLaunch s t := by
  cases contextStep_kind h with
  | takesByte k addr left t _ h => exact (blockByte_sameSurroundings h).sameLaunch
  | runs i t _ h => exact (exec_sameSurroundings h).sameLaunch
  | _ => simp [SameLaunch]

theorem move_sameLaunch {e : Event} {s t : State} (h : move e s = .next t) : SameLaunch s t := by
  cases e with
  | run => exact contextStep_sameLaunch h
  | _ =>
    obtain rfl := Host.Outcome.next.inj h
    simp [SameLaunch]

/-- Settles O57: a step is a move up to the schedule and the draws, and no move changes what is fixed. -/
theorem configurationNeverChanges : Obligations.ConfigurationNeverChanges := by
  intro s t h
  obtain ⟨sched, e, u, draws, hmove, rfl⟩ := move_of_step h
  have hsame := move_sameLaunch hmove
  exact hsame

/-! ### Memory (spec/20_memory.md R61, R62, R70) -/

/-- A step of a block command stores at most the byte it is at, when it is a receive there and the byte is admitted. -/
theorem blockByte_mem {k : Block} {addr left : Nat} {s t : State} (h : blockByte k addr left s = .next t) :
    t.mem = s.mem ∨ k = .spiRx ∧ s.admits addr = true ∧ ∃ v, t.mem = s.mem.write addr v := by
  have hrx : k = .spiRx → s.admits addr = true → ∃ v, (k.access addr s).mem = s.mem.write addr v := by
    rintro rfl -
    exact ⟨s.received, rfl⟩
  by_cases hk : k = .spiRx
  · obtain ⟨-, rfl⟩ | ⟨ha, -, rfl⟩ | ⟨ha, rest, -, -, rfl⟩ := blockByte_next h
    · exact .inl rfl
    · exact .inr ⟨hk, ha, by simpa using hrx hk ha⟩
    · exact .inr ⟨hk, ha, hrx hk ha⟩
  · obtain ⟨-, -, -, -, -, -, -, -, -, -, -, -, -, -, -, hmem⟩ := blockByte_frame h
    exact .inl (hmem hk)

/-- The issue of a block command stores at most its first byte. -/
theorem startBlock_mem {i : Instr} {k : Block} {addr len : Word} {s t : State} (h : startBlock i k addr len s = .next t) :
    t.mem = s.mem ∨
      k = .spiRx ∧ len ≠ 0#32 ∧ s.admits addr.toNat = true ∧ ∃ v, t.mem = s.mem.write addr.toNat v := by
  obtain ⟨-, rfl⟩ | ⟨hlen, -, ha, h⟩ | ⟨-, -, -, rfl⟩ := startBlock_next h
  · exact .inl rfl
  · have := blockByte_mem h
    simp only [Block.markBusy_mem, Block.markBusy_admits] at this
    exact this.imp_right fun ⟨hk, ha, hwrite⟩ => ⟨hk, hlen, ha, hwrite⟩
  · exact .inl (by simp)

/-- Of the commands, a receive of some length stores, at its operand. -/
theorem exec_mem {i : Instr} {s t : State} (h : exec i s = .next t) :
    t.mem = s.mem ∨ ∃ addr len, i = .spiRxBlock addr len ∧ len ≠ 0#32 ∧ s.admits addr.toNat = true ∧
      ∃ v, t.mem = s.mem.write addr.toNat v := by
  cases commandStep_of_exec h with
  | startsBlock k addr len t _ h =>
    obtain hmem | ⟨rfl, hlen, ha, hwrite⟩ := startBlock_mem h
    · exact .inl hmem
    · exact .inr ⟨addr, len, rfl, hlen, ha, hwrite⟩
  | delays i n usecs => exact .inl (by rw [startDelay_eq])
  | _ => exact .inl (by simp)

/-- Memory is as it was, but for at most one admitted byte. -/
def StoresAdmitted (s t : State) : Prop :=
  t.mem = s.mem ∨ ∃ a v, s.admits a = true ∧ t.mem = s.mem.write a v

theorem contextStep_storesAdmitted {s t : State} (h : contextStep s = .next t) : StoresAdmitted s t := by
  cases contextStep_kind h with
  | takesByte k addr left t _ h => exact (blockByte_mem h).imp_right fun ⟨_, ha, v, hv⟩ => ⟨addr, v, ha, hv⟩
  | runs i t _ h => exact (exec_mem h).imp_right fun ⟨addr, _, _, _, ha, v, hv⟩ => ⟨addr.toNat, v, ha, hv⟩
  | _ => exact .inl (by simp)

theorem State.callerStore_of_admits {s : State} {a : Nat} (ha : s.admits a = true) (v : Byte) :
    s.callerStore a v = s.writeByte a v :=
  if_pos ha

theorem State.callerStore_of_not_admits {s : State} {a : Nat} (ha : s.admits a = false) (v : Byte) :
    s.callerStore a v = s :=
  if_neg (by simp [ha])

/-- Of the environment's moves, the caller's store alone writes memory. -/
theorem move_mem {e : Event} {s t : State} (hrun : e ≠ .run) (hstore : ∀ a v, e ≠ .store a v) (h : move e s = .next t) :
    t.mem = s.mem := by
  cases e with
  | run => exact absurd rfl hrun
  | store a v => exact absurd rfl (hstore a v)
  | _ =>
    obtain rfl := Host.Outcome.next.inj h
    simp

theorem move_storesAdmitted {e : Event} {s t : State} (h : move e s = .next t) : StoresAdmitted s t := by
  by_cases hrun : e = .run
  · subst hrun
    exact contextStep_storesAdmitted h
  · by_cases hstore : ∃ a v, e = .store a v
    · obtain ⟨a, v, rfl⟩ := hstore
      obtain rfl := Host.Outcome.next.inj h
      cases ha : s.admits a with
      | true => exact .inr ⟨a, v, ha, by rw [State.callerStore_of_admits ha]; rfl⟩
      | false => exact .inl (by rw [State.callerStore_of_not_admits ha])
    · exact .inl (move_mem hrun (fun a v heq => hstore ⟨a, v, heq⟩) h)

/-- A byte that no store of the step is at reads as before. -/
theorem readByte_of_write {s t : State} {a b : Nat} {v : Byte} (h : t.mem = s.mem.write b v) (hne : a ≠ b) :
    t.readByte a = s.readByte a := by
  rw [State.readByte, h]
  exact Memory.read_write_other s.mem hne v

/-- Settles O56: the stores of each kind of step, and a byte elsewhere than the store reads as before. -/
theorem onlyReceivesAndCallerStoresWriteMemory : Obligations.OnlyReceivesAndCallerStoresWriteMemory := by
  refine ⟨fun i s t h => ⟨?_, fun hrx a => ?_⟩, fun s t hactive h a ha => ?_, fun s a v => ⟨fun ha hwf => ?_, fun ha => ?_⟩,
    fun e s t => move_mem, fun s t a ha h => ?_⟩
  · rintro addr len rfl a ha
    obtain hmem | ⟨addr', len', heq, hlen, -, v, hmem⟩ := exec_mem h
    · exact State.readByte_congr hmem a
    · obtain ⟨rfl, rfl⟩ := Instr.spiRxBlock.inj heq
      exact readByte_of_write hmem (ha.resolve_right hlen)
  · obtain hmem | ⟨addr, len, heq, -⟩ := exec_mem h
    · exact State.readByte_congr hmem a
    · exact absurd heq (hrx addr len)
  · cases contextStep_kind h with
    | takesByte k addr left t hblock h =>
      obtain hmem | ⟨rfl, -, v, hmem⟩ := blockByte_mem h
      · exact State.readByte_congr hmem a
      · exact readByte_of_write hmem fun heq => ha left (heq ▸ hblock)
    | holds | endsDelay => rfl
    | endsProgram hidle | jumps _ hidle | runs _ _ hidle => exact absurd hidle hactive
  · exact ⟨s.mem.write a v, congrArg Host.Outcome.next (State.callerStore_of_admits ha v),
      Memory.read_write_same hwf a v, fun b hb => Memory.read_write_other s.mem hb v⟩
  · exact congrArg Host.Outcome.next (State.callerStore_of_not_admits ha v)
  · obtain ⟨sched, e, u, draws, hmove, rfl⟩ := move_of_step h
    obtain hmem | ⟨b, v, hb, hmem⟩ := move_storesAdmitted hmove
    · exact State.readByte_congr (s := s) hmem a
    · refine readByte_of_write (s := s) hmem fun heq => ?_
      subst heq
      exact Bool.false_ne_true (ha.symm.trans hb)

/-! ### The SPI output (spec/44_spi.md R194) -/

theorem Block.access_spiOut (k : Block) (addr : Nat) (s : State) : s.spiOut <+: (k.access addr s).spiOut := by
  cases k with
  | crc7 acc | crc16 acc => exact List.prefix_refl _
  | spiTx | spiRx => exact List.prefix_append _ _

theorem blockByte_spiOut {k : Block} {addr left : Nat} {s t : State} (h : blockByte k addr left s = .next t) :
    s.spiOut <+: t.spiOut := by
  obtain ⟨-, rfl⟩ | ⟨-, -, rfl⟩ | ⟨-, rest, -, -, rfl⟩ := blockByte_next h
  · exact List.prefix_refl _
  · simpa using k.access_spiOut addr s
  · exact k.access_spiOut addr s

theorem State.selectDevice_spiOut_prefix (s : State) (dev : Selector) : s.spiOut <+: (s.selectDevice dev).spiOut := by
  rw [State.selectDevice_spiOut]
  split
  · exact List.prefix_refl _
  · exact List.prefix_append _ _

theorem exec_spiOut {i : Instr} {s t : State} (h : exec i s = .next t) : s.spiOut <+: t.spiOut := by
  cases commandStep_of_exec h with
  | startsBlock k addr len t _ h =>
    obtain ⟨-, rfl⟩ | ⟨-, -, -, h⟩ | ⟨-, -, -, rfl⟩ := startBlock_next h
    · exact List.prefix_refl _
    · simpa using blockByte_spiOut h
    · simp
  | delays i n usecs => rw [startDelay_eq]
  | initsSpi p => exact (s.turnSpiOn.setSpeed p).selectDevice_spiOut_prefix .none
  | selects dev => exact s.selectDevice_spiOut_prefix dev
  | exchanges i tx r => exact List.prefix_append _ _
  | _ => simp

theorem move_spiOut {e : Event} {s t : State} (h : move e s = .next t) : s.spiOut <+: t.spiOut := by
  cases e with
  | run =>
    cases contextStep_kind h with
    | takesByte k addr left t _ h => exact blockByte_spiOut h
    | runs i t _ h => exact exec_spiOut h
    | _ => simp
  | _ =>
    obtain rfl := Host.Outcome.next.inj h
    simp

/-- Settles O48: every move appends to the output or leaves it. -/
theorem spiOutputOnlyGrows : Obligations.SpiOutputOnlyGrows := by
  intro s t h
  obtain ⟨sched, e, u, draws, hmove, rfl⟩ := move_of_step h
  have hprefix := move_spiOut hmove
  exact hprefix

/-! ### The stack of contexts (spec/60_exceptions.md R240) -/

theorem exec_stack_length {i : Instr} {s t : State} (h : exec i s = .next t) : t.stack.length = s.stack.length := by
  cases commandStep_of_exec h with
  | startsBlock k addr len t _ h =>
    obtain ⟨-, -, -, -, -, -, -, -, hstack, -⟩ := startBlock_frame h
    rw [hstack]
  | delays i n usecs => rw [startDelay_eq]; exact drawDelays_length s.stack s.inputs.draws
  | _ => simp

theorem contextStep_stack_length {s t : State} (h : contextStep s = .next t) : t.stack.length ≤ s.stack.length := by
  cases contextStep_kind h with
  | takesByte k addr left t _ h =>
    obtain ⟨-, -, -, -, -, -, -, -, hstack, -⟩ := blockByte_frame h
    rw [hstack]
  | runs i t _ h => exact (exec_stack_length h).le
  | endsProgram => rcases hs : s.stack with - | ⟨c, rest⟩ <;> simp [State.endContext, hs]
  | _ => simp

/-- A move that makes the stack longer is a delivery that takes place. -/
theorem deliver_of_move_stack_length {e : Event} {s t : State} (h : move e s = .next t)
    (hlen : s.stack.length < t.stack.length) : ∃ src, s.mayDeliver src = true ∧ t = s.deliver src := by
  cases e with
  | run => exact absurd hlen (Nat.not_lt.mpr (contextStep_stack_length h))
  | deliver src =>
    obtain rfl := Host.Outcome.next.inj h
    cases hmay : s.mayDeliver src with
    | true => exact ⟨src, hmay, State.tryDeliver_of_mayDeliver hmay⟩
    | false => simp [State.tryDeliver, hmay] at hlen
  | _ =>
    obtain rfl := Host.Outcome.next.inj h
    simp at hlen

/-- Settles O53: such a step is a delivery, which pushes the running context as it stands. -/
theorem onlyDeliveryInterruptsAContext : Obligations.OnlyDeliveryInterruptsAContext := by
  intro s t h hlen
  obtain ⟨sched, e, u, draws, hmove, rfl⟩ := move_of_step h
  obtain ⟨src, hmay, rfl⟩ := deliver_of_move_stack_length hmove hlen
  refine ⟨src, ?_, rfl, rfl, ?_⟩
  · rw [← hmay]
    cases src <;> rfl
  · cases src <;> rfl

end Sys2Proof.Machine
end

section
/-!
PROOFS. Column W of the state table (spec/10_state.md R45): the commands that change each field of the block.
-/

namespace Sys2Proof.Machine

open Sys2Proof.Claims

theorem State.driveLine_irq (s : State) (l : BusLine) (v : Bool) :
    (s.driveLine l v).irq = s.irq.afterWire l (decide ((v && lineBit s.env.ext l) ≠ s.wire l)) := by
  rw [State.driveLine_eq_afterWire]

/-- A step of a block command changes `SPI_BUSY` only with the last byte of an SPI block command (spec/44_spi.md R203). -/
theorem blockByte_spiBusy {k : Block} {addr left : Nat} {s t : State} (h : blockByte k addr left s = .next t)
    (hne : t.spi.spiBusy ≠ s.spi.spiBusy) : k.isSpi = true ∧ left = 1 := by
  obtain ⟨-, rfl⟩ | ⟨-, hleft, rfl⟩ | ⟨-, rest, -, -, rfl⟩ := blockByte_next h
  · exact absurd rfl hne
  · refine ⟨?_, hleft⟩
    by_contra hspi
    simp [Block.markBusy_spi, hspi] at hne
  · simp at hne

/-- Settles O55: the fields each command writes, and those the step of a command in progress writes. -/
theorem fieldsChangeOnlyByTheirCommands : Obligations.FieldsChangeOnlyByTheirCommands := by
  refine ⟨fun i s t h => ?_, fun s t hactive h => ?_⟩
  · cases commandStep_of_exec h with
    | startsBlock k addr len t hready h =>
      obtain ⟨hcfg, hprogs, htimeout, hout, hirq, hpar, hadmitted, henv, hstack, hsched, howner, hon, hspeed, hsel, hspi,
        -⟩ := startBlock_frame h
      have hbusy : t.spi.spiBusy ≠ s.spi.spiBusy →
          ∃ a l, blockCommand k addr len = .spiTxBlock a l ∨ blockCommand k addr len = .spiRxBlock a l := by
        intro hne
        cases k with
        | crc7 acc | crc16 acc => rw [hspi rfl] at hne; exact absurd rfl hne
        | spiTx => exact ⟨addr, len, .inl rfl⟩
        | spiRx => exact ⟨addr, len, .inr rfl⟩
      simpa [hcfg, hprogs, htimeout, hout, hirq, hpar, hadmitted, henv, hstack, hsched, howner, hon, hspeed, hsel]
        using hbusy
    | delays i n usecs hi =>
      have howner := startDelay_owner usecs s
      rw [startDelay_eq] at howner ⊢
      rcases hi with rfl | rfl <;> simpa using howner
    | drivesLine l v =>
      cases l <;> simp [State.driveLine_irq, IrqUnit.afterWire, lineCommand]
    | armsTimeout => simp
    | armsAtn v => cases v <;> simp [State.armAtn]
    | armsClock v => cases v <;> simp [State.armClock]
    | _ => simp
  · cases contextStep_kind h with
    | takesByte k addr left t hblock h =>
      obtain ⟨hcfg, hprogs, htimeout, hout, hirq, hpar, hadmitted, henv, hstack, hsched, howner, hon, hspeed, hsel, -⟩ :=
        blockByte_frame h
      refine ⟨htimeout, hout, hirq, hpar, hstack, hon, hspeed, hsel, fun hne => ?_, hcfg, hprogs, henv, hadmitted,
        hsched, howner⟩
      obtain ⟨hspi, rfl⟩ := blockByte_spiBusy h hne
      cases k with
      | crc7 acc | crc16 acc => cases hspi
      | spiTx => exact ⟨addr, .inl hblock⟩
      | spiRx => exact ⟨addr, .inr hblock⟩
    | holds | endsDelay => simp
    | endsProgram hidle | jumps _ hidle | runs _ _ hidle => exact absurd hidle hactive

end Sys2Proof.Machine
end

section
/-!
PROOFS. The moves of the environment and the harness lines: time, bus levels, deliveries and returns, branches, and how a
step selects its move (spec/20_memory.md R70, spec/30_encoding.md R104, spec/60_exceptions.md R239 to R253).
-/

namespace Sys2Proof.Machine

open Sys2Proof.Claims

/-! ### Time (spec/40_timeout.md R114) -/

theorem Context.tick_eq_microsecondLater : Context.tick = microsecondLater := by
  funext c
  rcases hactive : c.active with - | ⟨left⟩ | ⟨k, addr, left⟩ <;> simp only [Context.tick, microsecondLater, hactive]

theorem TimeoutUnit.tick_toExp (t : TimeoutUnit) (tickW : Nat) :
    (t.tick tickW).toExp = if t.toRem = 1 then true else t.toExp := by
  by_cases h : t.toRem = 1 <;> simp [TimeoutUnit.tick, h]

/-- Settles O12: the microsecond of each counter. -/
theorem microsecondAdvancesTheCounters : Obligations.MicrosecondAdvancesTheCounters := by
  intro s
  simp only [← TimeoutUnit.tick_toExp s.timeout s.cfg.tickW, ← Context.tick_eq_microsecondLater]
  rfl

/-! ### Bus levels (spec/41_bus_lines.md R130, spec/42_edge_irq.md R151) -/

/-- New levels write `EXT` and the pending bits of ATN and CLOCK, each by whether its wire changes. -/
theorem State.setExt_eq_afterWire (s : State) (levels : Lines) : s.setExt levels = { s with
    env := { s.env with ext := levels }
    irq := (s.irq.afterWire .atn (decide ((s.out.atn && levels.atn) ≠ s.wire .atn))).afterWire .clock
      (decide ((s.out.clock && levels.clock) ≠ s.wire .clock)) } := by
  simp only [State.setExt, State.edgeIfChanged_eq_afterWire]
  rfl

/-- Settles O23: the levels are written, then each wire is checked for an edge. -/
theorem busLevelsMakeEdges : Obligations.BusLevelsMakeEdges := fun s levels =>
  congrArg Host.Outcome.next (s.setExt_eq_afterWire levels)

/-! ### Deliveries and returns (spec/60_exceptions.md R238 to R242) -/

/-- The conditions of a delivery. -/
theorem State.mayDeliver_iff {s : State} {src : Source} :
    s.mayDeliver src = true ↔ s.pending src = true ∧ s.enabled src = true ∧ s.env.cpuIe = true ∧
      (s.cfg.irqNesting = .admitted ∨ s.stack = []) := by
  simp only [State.mayDeliver, State.deliverable, State.handlerRunning, Bool.and_eq_true, Bool.or_eq_true,
    decide_eq_true_eq, Bool.not_not, List.isEmpty_iff, and_assoc]

/-- Settles O51: a delivery tests its conditions, and does nothing where one fails. -/
theorem deliveryEntersTheHandler : Obligations.DeliveryEntersTheHandler := by
  refine fun s src => ⟨fun hpend hen hie hnest => ?_, fun hfail => ?_, fun _ => rfl⟩
  · exact congrArg Host.Outcome.next
      (State.tryDeliver_of_mayDeliver (State.mayDeliver_iff.mpr ⟨hpend, hen, hie, hnest⟩))
  · have hnot : ¬s.mayDeliver src = true := by
      intro hmay
      obtain ⟨hpend, hen, hie, hnest⟩ := State.mayDeliver_iff.mp hmay
      rcases hfail with h | h | h | ⟨hexcluded, hstack⟩
      · simp [hpend] at h
      · simp [hen] at h
      · simp [hie] at h
      · exact hnest.elim (fun h => by simp [h] at hexcluded) hstack
    exact congrArg Host.Outcome.next (if_neg hnot)

/-- A context with nothing in progress runs its line. -/
theorem contextStep_of_idle {s : State} (hidle : s.run.active = none) : contextStep s = runLine s.line s := by
  simp only [contextStep, hidle]

/-- A context whose program has ended gives the machine back, at `halt` and past the last line alike. -/
theorem contextStep_of_ended {s : State} (hidle : s.run.active = none) (hend : s.line = none ∨ s.line = some .halt) :
    contextStep s = .next s.endContext := by
  rw [contextStep_of_idle hidle]
  rcases hend with h | h <;> rw [h] <;> rfl

/-- Settles O52: the interrupted context is the running one again. -/
theorem handlerEndResumesTheContext : Obligations.HandlerEndResumesTheContext := by
  intro s c rest hidle hend hstack
  rw [contextStep_of_ended hidle hend, State.endContext, hstack]

/-! ### Harness lines (spec/30_encoding.md R104) -/

/-- Settles O7: each line by its meaning, and a finished main path has no context to return to. -/
theorem harnessLinesMoveTheContext : Obligations.HarnessLinesMoveTheContext := by
  refine ⟨fun s target hidle => ?_, fun s => ?_⟩
  · rw [contextStep_of_idle hidle]
    refine ⟨fun h => by rw [h]; rfl, fun h => by rw [h]; rfl, fun h => by rw [h]; rfl, fun h => ?_⟩
    rw [h, ite_not]
    rfl
  · have hiff : s.finished = true ↔ launchRefusal s.cfg s.progs = none ∧ s.run.active = none ∧
        (s.line = none ∨ s.line = some .halt) ∧ s.stack = [] := by
      simp [State.finished, State.atEnd, and_assoc]
    refine ⟨hiff, fun hfinished => ?_⟩
    obtain ⟨-, hidle, hend, hstack⟩ := hiff.mp hfinished
    rw [contextStep_of_ended hidle hend, State.endContext, hstack]

/-! ### The selection of a move (log 12) -/

/-- A launch that is not refused moves. -/
theorem step_of_launchable {s : State} (h : launchRefusal s.cfg s.progs = none) : step s = interleave s := by
  simp only [step, machineStep, h]

/-- With a script, its first move is consumed. -/
theorem step_of_script {s : State} {e : Event} {rest : List Event} (h : launchRefusal s.cfg s.progs = none)
    (hscript : s.sched.script = e :: rest) : step s = move e { s with sched := { s.sched with script := rest } } := by
  simp only [step_of_launchable h, interleave, hscript]

/-- Without one, the default schedule moves. -/
theorem step_of_no_script {s : State} (h : launchRefusal s.cfg s.progs = none) (hscript : s.sched.script = []) :
    step s = defaultMove s := by
  simp only [step_of_launchable h, interleave, hscript]

/-- There is a source to deliver exactly when some source may be delivered. -/
theorem State.chooseSource_eq_none_iff {s : State} :
    s.chooseSource = none ↔ ∀ src, s.mayDeliver src = false := by
  have hlist : s.chooseSource = none ↔ s.deliverables = [] := by
    unfold State.chooseSource
    split <;> simp_all
  rw [hlist, State.deliverables, List.filter_eq_nil_iff]
  constructor
  · intro h src
    exact Bool.eq_false_iff.mpr (h src (by cases src <;> decide))
  · intro h src _
    simp [h src]

/-- The caller's turn, with no source to deliver: the running context steps. -/
theorem step_of_caller {s : State} (h : launchRefusal s.cfg s.progs = none) (hscript : s.sched.script = [])
    (hturn : s.sched.turn = .caller) (hnone : ∀ src, s.mayDeliver src = false) :
    step s = contextStep (s.setTurn .time) := by
  rw [step_of_no_script h hscript, defaultMove]
  simp only [hturn, State.chooseSource_eq_none_iff.mpr hnone]

/-- A context at a command issues it. -/
theorem contextStep_of_cmd {s : State} {w : Words} (hidle : s.run.active = none) (hline : s.line = some (.cmd w)) :
    contextStep s = issue w s := by
  rw [contextStep_of_idle hidle, hline]
  rfl

/-- A word that decodes is executed. -/
theorem issue_of_decode_ok {s : State} {w : Words} {i : Instr} (h : decode s.cfg w = .ok i) : issue w s = exec i s := by
  simp only [issue, h]

/-- A line placed at an index stands there. -/
theorem placeLine_getElem? (p : List ProgLine) (n : Nat) (line : ProgLine) : (placeLine p n line)[n]? = some line := by
  have hlen : (p.take n ++ List.replicate (n - p.length) ProgLine.label).length = n := by
    simp only [List.length_append, List.length_take, List.length_replicate]
    omega
  rw [placeLine, List.append_assoc, List.getElem?_append_right hlen.le, hlen, Nat.sub_self]
  rfl

theorem programOf_placeIn (p : Programs) (owner : Owner) (n : Nat) (line : ProgLine) :
    programOf (placeIn p owner n line) owner = placeLine (programOf p owner) n line := by
  rcases owner with - | ⟨- | - | -⟩ <;> rfl

/-- The command placed for the next step is the line the running context stands at. -/
theorem State.withCommand_line (s : State) (w : Words) : (s.withCommand w).line = some (.cmd w) := by
  have hline : (s.withCommand w).line = (programOf (placeIn s.progs s.run.owner s.run.pc (.cmd w)) s.run.owner)[s.run.pc]? :=
    rfl
  rw [hline, programOf_placeIn, placeLine_getElem?]

/-- Settles O6: the check before a step, then the selection of a move, then the line of the context. -/
theorem stepRunsTheDecodedCommand : Obligations.StepRunsTheDecodedCommand := by
  have hcmd : ∀ {s : State} {w : Words} {i : Instr}, s.run.active = none → s.line = some (.cmd w) →
      decode s.cfg w = .ok i → contextStep s = exec i s := fun hidle hline hdecode =>
    (contextStep_of_cmd hidle hline).trans (issue_of_decode_ok hdecode)
  refine ⟨fun s r => step_of_launchRefusal, fun s e rest => step_of_script, fun s h hscript => ⟨fun hturn => ?_,
    fun hturn => step_of_caller h hscript hturn, fun hturn hsome => ?_⟩,
    fun s => ⟨rfl, fun w hidle hline => ⟨contextStep_of_cmd hidle hline, fun i => hcmd hidle hline⟩⟩,
    fun s w i rest h hidle hline hdecode hscript => ?_, fun s w i h hidle hline hdecode hscript hturn hnone => ?_,
    fun s nbits n i h hdecode => ?_⟩
  · rw [step_of_no_script h hscript, defaultMove]
    simp only [hturn]
    rfl
  · cases hchoice : s.chooseSource with
    | none =>
      obtain ⟨src, hmay⟩ := hsome
      rw [State.chooseSource_eq_none_iff.mp hchoice src] at hmay
      cases hmay
    | some src =>
      have hmay : s.mayDeliver src = true := State.mayDeliver_of_chooseSource hchoice
      refine ⟨src, s.drawsAfterChoice, (s.setTurn .time).deliver src, hmay, ?_, ?_⟩
      · exact congrArg Host.Outcome.next
          (State.tryDeliver_of_mayDeliver ((s.mayDeliver_setTurn .time src).trans hmay))
      · rw [step_of_no_script h hscript, defaultMove]
        simp only [hturn, hchoice]
        cases src <;> rfl
  · rw [step_of_script h hscript]
    exact hcmd (s := { s with sched := { s.sched with script := rest } }) hidle hline hdecode
  · rw [step_of_caller h hscript hturn hnone]
    exact hcmd (s := s.setTurn .time) hidle hline hdecode
  · rw [step_of_script (s := s.withFetchWord nbits n) h rfl]
    exact hcmd (s := { s with progs := (s.withFetchWord nbits n).progs, run := { s.run with active := none } }) rfl
      (s.withCommand_line (wordsOfNat nbits n)) hdecode

end Sys2Proof.Machine
end

section
/-!
PROOFS. The invariant of the reachable states (spec/10_state.md section 8): one predicate for each part of the state, what
keeps each part, and from them the commands, the contexts, the moves and the step.
-/

namespace Sys2Proof.Machine

open Sys2Proof.Claims

/-! ### The parts of the invariant -/

/-- `MEM` is canonical and lies in its address space. -/
def MemoryOk (cfg : Config) (mem : Memory) : Prop := mem.wf = true ∧ ∀ c ∈ mem, c.1 < 2 ^ cfg.addrW

/-- The deadline and the tick count are in range, and the level is clear while a deadline counts. -/
def TimeoutOk (cfg : Config) (u : TimeoutUnit) : Prop :=
  u.toRem ≤ cfg.toMax ∧ (0 < u.toRem → u.toExp = false) ∧ u.now < 2 ^ cfg.tickW

/-- The contexts, the running one first, with the SPI state they stand beside. -/
structure ContextsOk (cfg : Config) (spi : SpiUnit) (cs : List Context) : Prop where
  shape : stackShape cs = true
  nesting : cfg.irqNesting = .excluded → cs.length ≤ 2
  active : ∀ c ∈ cs, c.activeOk cfg = true
  busy : cs.countP Context.inSpiBlock = spi.spiBusy.toNat
  busyOn : spi.spiBusy = true → spi.spiOn = true

/-- The parallel fields are consistent with each other and with the sensed line. -/
structure ParOk (cfg : Config) (pending : Bool) (par : ParUnit) (hsIn : Bool) : Prop where
  handshake : par.hsPrev = hsIn
  enabled : par.parEn = par.parOn
  lines : par.parOn = true → par.parHsOut = true ∧ par.parDataOut = 0xFF#8
  pendingEnabled : pending = true → par.parEn = true
  absent : cfg.hasParallel = false → par.parOn = false

/-- No unwired line is armed or pending. -/
def WiringOk (cfg : Config) (irq : IrqUnit) : Prop :=
  (cfg.wiredAtn = false → irq.enAtn = false ∧ irq.pendAtn = false) ∧
    (cfg.wiredClock = false → irq.enClock = false ∧ irq.pendClock = false)

/-- The invariant is the conjunction of its parts. -/
theorem State.inv_iff {s : State} : s.Inv ↔ MemoryOk s.cfg s.mem ∧ TimeoutOk s.cfg s.timeout ∧
    ContextsOk s.cfg s.spi (s.run :: s.stack) ∧ ParOk s.cfg s.irq.pendPar s.par s.env.hsIn ∧ WiringOk s.cfg s.irq := by
  constructor
  · intro h
    exact ⟨⟨h.memForm, h.memBound⟩, ⟨h.deadline, h.counting, h.tick⟩,
      ⟨h.shape, fun hex => Nat.succ_le_succ (h.nesting hex), h.active, h.busy, h.busyOn⟩,
      ⟨h.handshake, h.parEnabled, h.parLines, h.parPending, h.parAbsent⟩, h.unwiredAtn, h.unwiredClock⟩
  · rintro ⟨⟨hform, hbound⟩, ⟨hdeadline, hcounting, htick⟩, hctx, hpar, hatn, hclock⟩
    exact ⟨hform, hbound, hdeadline, hcounting, htick, hctx.shape, fun hex => Nat.le_of_succ_le_succ (hctx.nesting hex),
      hctx.active, hctx.busy, hctx.busyOn, hpar.handshake, hpar.enabled, hpar.lines, hpar.pendingEnabled, hpar.absent,
      hatn, hclock⟩

/-! ### Memory and time -/

theorem MemoryOk.of_storesAdmitted {s t : State} (h : MemoryOk s.cfg s.mem) (hstore : StoresAdmitted s t) :
    MemoryOk s.cfg t.mem := by
  obtain ⟨hform, hbound⟩ := h
  obtain hmem | ⟨a, v, ha, hmem⟩ := hstore <;> rw [hmem]
  · exact ⟨hform, hbound⟩
  · refine ⟨Memory.wf_write hform a v, fun c hc => ?_⟩
    obtain rfl | hc := Memory.mem_write hc
    · exact State.lt_of_admits ha
    · exact hbound c hc

theorem TimeoutOk.tick {cfg : Config} {u : TimeoutUnit} (h : TimeoutOk cfg u) : TimeoutOk cfg (u.tick cfg.tickW) := by
  obtain ⟨hdeadline, hcounting, -⟩ := h
  refine ⟨(Nat.sub_le u.toRem 1).trans hdeadline, fun hpos => ?_, Nat.mod_lt _ (Nat.two_pow_pos cfg.tickW)⟩
  have hrem : 1 < u.toRem := Nat.lt_of_sub_pos hpos
  simp [TimeoutUnit.tick, hcounting (by omega), hrem.ne']

/-- `TO_TICKS` of an operand in range is in range (spec/00_scope.md R10, log 2). -/
theorem Config.ticks_le {cfg : Config} (hwf : cfg.wf = true) {usecs : Nat} (h : usecs ≤ cfg.toMax) :
    cfg.ticks usecs ≤ cfg.toMax := by
  obtain ⟨-, -, -, -, -, htable⟩ := Config.wf_iff.mp hwf
  rw [Config.ticks]
  cases hlookup : cfg.toTicks.lookup usecs with
  | none => exact h
  | some ticks =>
    obtain ⟨before, after, heq, -⟩ := List.lookup_eq_some_iff.mp hlookup
    exact htable (usecs, ticks) (by simp [heq])

theorem TimeoutOk.arm {cfg : Config} {u : TimeoutUnit} (h : TimeoutOk cfg u) (hwf : cfg.wf = true) {usecs : BitVec 24}
    (hrange : (Instr.startTimeout usecs).wf cfg = true) :
    TimeoutOk cfg { u with toRem := cfg.ticks usecs.toNat, toExp := false } := by
  obtain ⟨-, -, htick⟩ := h
  simp only [Instr.wf, Bool.and_eq_true, decide_eq_true_eq] at hrange
  exact ⟨Config.ticks_le hwf hrange.2, fun _ => rfl, htick⟩

/-! ### Contexts -/

section Contexts

variable {cfg : Config} {spi spi' : SpiUnit} {c c' : Context} {cs cs' : List Context}

/-- The shape of the stack depends on the owners alone. -/
theorem stackShape_congr (h : List.Forall₂ (fun c c' => c'.owner = c.owner) cs cs') : stackShape cs' = stackShape cs := by
  induction h with
  | nil => rfl
  | cons howner hrest ih => cases hrest with
    | nil => simp only [stackShape, howner]
    | cons _ _ => simp only [stackShape, howner, ← ih]

theorem Context.inSpiBlock_of_idle (h : c.active = none) : c.inSpiBlock = false := by simp only [Context.inSpiBlock, h]

theorem Context.inSpiBlock_of_block {k : Block} {addr left : Nat} (h : c.active = some (.block k addr left)) :
    c.inSpiBlock = k.isSpi := by
  simp only [Context.inSpiBlock, h]

/-- The running context may take up, go on with or finish a command, with `SPI_BUSY` kept in step. -/
theorem ContextsOk.setRunning (h : ContextsOk cfg spi (c :: cs)) (howner : c'.owner = c.owner)
    (hactive : c'.activeOk cfg = true)
    (hbusy : spi'.spiBusy.toNat + c.inSpiBlock.toNat = spi.spiBusy.toNat + c'.inSpiBlock.toNat)
    (hon : spi'.spiBusy = true → spi'.spiOn = true) : ContextsOk cfg spi' (c' :: cs) where
  shape := (stackShape_congr (.cons howner (List.forall₂_same.mpr fun _ _ => rfl))).trans h.shape
  nesting := h.nesting
  active := List.forall_mem_cons.mpr ⟨hactive, (List.forall_mem_cons.mp h.active).2⟩
  busy := by
    have hcount := h.busy
    cases hc : c.inSpiBlock <;> cases hc' : c'.inSpiBlock <;> simp_all
    all_goals omega
  busyOn := hon

/-- Changes of the contexts that keep their owners, their SPI block commands and their admission. -/
theorem ContextsOk.mono (h : ContextsOk cfg spi cs) (hrel : List.Forall₂ (fun c c' => c'.owner = c.owner ∧
    c'.inSpiBlock = c.inSpiBlock ∧ (c.activeOk cfg = true → c'.activeOk cfg = true)) cs cs') :
    ContextsOk cfg spi cs' where
  shape := (stackShape_congr (hrel.imp fun _ _ h => h.1)).trans h.shape
  nesting hex := hrel.length_eq ▸ h.nesting hex
  active := by
    have hall := h.active
    clear h
    induction hrel with
    | nil => exact hall
    | cons hhead _ ih =>
      obtain ⟨hc, hrest⟩ := List.forall_mem_cons.mp hall
      exact List.forall_mem_cons.mpr ⟨hhead.2.2 hc, ih hrest⟩
  busy := by
    rw [← h.busy]
    clear h
    induction hrel with
    | nil => rfl
    | cons hhead _ ih => rw [List.countP_cons, List.countP_cons, ih, hhead.2.1]
  busyOn := h.busyOn

/-- A handler starts above the contexts. -/
theorem ContextsOk.push (h : ContextsOk cfg spi (c :: cs)) (src : Source)
    (hnest : cfg.irqNesting = .admitted ∨ cs = []) :
    ContextsOk cfg spi (⟨.handler src, 0, 0#32, none⟩ :: c :: cs) where
  shape := by simpa [stackShape] using h.shape
  nesting hex := by
    obtain hadm | rfl := hnest
    · rw [hadm] at hex; cases hex
    · exact Nat.le_refl 2
  active := List.forall_mem_cons.mpr ⟨rfl, h.active⟩
  busy := h.busy
  busyOn := h.busyOn

/-- A handler with nothing in progress ends. -/
theorem ContextsOk.pop (h : ContextsOk cfg spi (c :: c' :: cs)) (hidle : c.active = none) :
    ContextsOk cfg spi (c' :: cs) where
  shape := by
    have hshape := h.shape
    simp only [stackShape, Bool.and_eq_true] at hshape
    exact hshape.2
  nesting hex := (Nat.le_succ _).trans (h.nesting hex)
  active := (List.forall_mem_cons.mp h.active).2
  busy := by
    have hbusy := h.busy
    rwa [List.countP_cons_of_neg (by simp [Context.inSpiBlock_of_idle hidle])] at hbusy
  busyOn := h.busyOn

theorem Context.tick_keeps (c : Context) : c.tick.owner = c.owner ∧ c.tick.inSpiBlock = c.inSpiBlock ∧
    (c.activeOk cfg = true → c.tick.activeOk cfg = true) := by
  rcases hactive : c.active with - | ⟨left⟩ | ⟨k, addr, left⟩
  · simp [Context.tick, hactive]
  · simp only [Context.tick, hactive, Context.inSpiBlock, Context.activeOk, Bool.and_eq_true, decide_eq_true_eq,
      true_and]
    exact And.imp_right (Nat.sub_le left 1).trans
  · simp [Context.tick, hactive]

/-- Time keeps the contexts. -/
theorem ContextsOk.tick (h : ContextsOk cfg spi cs) : ContextsOk cfg spi (cs.map Context.tick) :=
  h.mono (List.forall₂_map_right_iff.mpr (List.forall₂_same.mpr fun c _ => c.tick_keeps))

theorem delayDrawn_keeps (h : DelayDrawn c c') : c'.owner = c.owner ∧ c'.inSpiBlock = c.inSpiBlock ∧
    (c.activeOk cfg = true → c'.activeOk cfg = true) := by
  obtain ⟨-, rfl⟩ | ⟨left, left', hactive, hle, rfl⟩ := h
  · exact ⟨rfl, rfl, id⟩
  · simp only [hactive, Context.inSpiBlock, Context.activeOk, Bool.and_eq_true, decide_eq_true_eq, true_and]
    exact And.imp_right hle.trans

end Contexts

/-! ### Interrupt and parallel state -/

section Units

variable {cfg : Config} {irq : IrqUnit} {par : ParUnit} {hsIn : Bool}

/-- An edge of a bus line leaves the handshake's pending bit. -/
theorem ParOk.afterWire (h : ParOk cfg irq.pendPar par hsIn) (l : BusLine) (changed : Bool) :
    ParOk cfg (irq.afterWire l changed).pendPar par hsIn := by
  cases l <;> exact h

/-- An edge never makes an unwired line pending, as no such line is armed (spec/42_edge_irq.md R150). -/
theorem WiringOk.afterWire (h : WiringOk cfg irq) (l : BusLine) (changed : Bool) :
    WiringOk cfg (irq.afterWire l changed) := by
  obtain ⟨hatn, hclock⟩ := h
  cases l with
  | atn => exact ⟨fun hw => by simp [IrqUnit.afterWire, hatn hw], hclock⟩
  | clock => exact ⟨hatn, fun hw => by simp [IrqUnit.afterWire, hclock hw]⟩
  | data | srq => exact ⟨hatn, hclock⟩

theorem WiringOk.clear {s : State} (h : WiringOk cfg s.irq) (src : Source) :
    WiringOk cfg (s.setPending src false).irq := by
  obtain ⟨hatn, hclock⟩ := h
  cases src with
  | edgeAtn => exact ⟨fun hw => ⟨(hatn hw).1, rfl⟩, hclock⟩
  | edgeClock => exact ⟨hatn, fun hw => ⟨(hclock hw).1, rfl⟩⟩
  | parHs => exact ⟨hatn, hclock⟩

theorem ParOk.clear {s : State} (h : ParOk cfg s.irq.pendPar par hsIn) (src : Source) :
    ParOk cfg (s.setPending src false).irq.pendPar par hsIn := by
  cases src with
  | edgeAtn | edgeClock => exact h
  | parHs => exact { h with pendingEnabled := nofun }

end Units

/-! ### Commands -/

section Commands

variable {s t : State}

/-- A context with nothing in progress completes a command that leaves `SPI_BUSY`. -/
theorem ContextsOk.complete {cfg : Config} {spi spi' : SpiUnit} {c : Context} {cs : List Context}
    (h : ContextsOk cfg spi (c :: cs)) (hidle : c.active = none) (hbusy : spi'.spiBusy = spi.spiBusy)
    (hon : spi.spiOn = true → spi'.spiOn = true) (pc : Nat) (res : Word) :
    ContextsOk cfg spi' ({ c with pc := pc, res := res, active := none } :: cs) :=
  h.setRunning rfl rfl (by rw [Context.inSpiBlock_of_idle hidle, Context.inSpiBlock_of_idle rfl, hbusy]) fun hb => hon (h.busyOn (hbusy ▸ hb))

/-- A block command that has started and has taken no byte. -/
def Block.started (k : Block) (addr len : Word) (s : State) : State :=
  (k.markBusy true s).setActive (.block k addr.toNat len.toNat)

theorem Block.started_inv {k : Block} {addr len : Word} (h : s.Inv) (hidle : s.run.active = none)
    (hready : k.Ready addr len s) (hlen : len ≠ 0#32) (hrange : addr.toNat + len.toNat ≤ 2 ^ s.cfg.addrW) :
    (k.started addr len s).Inv := by
  obtain ⟨hmem, htime, hctx, hpar, hwire⟩ := State.inv_iff.mp h
  have hpos : 0 < len.toNat := Nat.pos_of_ne_zero fun h0 => hlen (BitVec.eq_of_toNat_eq (by simpa using h0))
  have hspi : (k.started addr len s).spi = if k.isSpi = true then { s.spi with spiBusy := true } else s.spi :=
    k.markBusy_spi true s
  refine State.inv_iff.mpr ⟨by simpa [Block.started] using hmem, by simpa [Block.started] using htime, ?_,
    by simpa [Block.started] using hpar, by simpa [Block.started] using hwire⟩
  have hstarted : ContextsOk s.cfg (k.started addr len s).spi
      ({ s.run with active := some (.block k addr.toNat len.toNat) } :: s.stack) := by
    refine hctx.setRunning rfl (by simp [Context.activeOk, hpos, hrange]) ?_ ?_
    · rw [hspi, Context.inSpiBlock_of_idle hidle, Context.inSpiBlock_of_block rfl]
      cases hk : k.isSpi with
      | false => simp
      | true => simp [(hready.2 hk).2]
    · rw [hspi]
      cases hk : k.isSpi with
      | false => simpa using hctx.busyOn
      | true => simpa using (hready.2 hk).1
  simpa [Block.started] using hstarted

/-- The step of a byte does not look at the command in progress. -/
theorem blockByte_setActive (k : Block) (addr left : Nat) (s : State) (a : Active) :
    blockByte k addr left (s.setActive a) = blockByte k addr left s := by
  cases left with
  | zero => rfl
  | succ rest =>
    simp only [blockByte]
    cases k <;> rfl

/-- While the running context is in an SPI block command, `SPI_BUSY` is 1. -/
theorem ContextsOk.spiBusy {cfg : Config} {spi : SpiUnit} {c : Context} {cs : List Context}
    (h : ContextsOk cfg spi (c :: cs)) (hspi : c.inSpiBlock = true) : spi.spiBusy = true := by
  have hcount := h.busy
  rw [List.countP_cons_of_pos hspi] at hcount
  cases hbusy : spi.spiBusy with
  | true => rfl
  | false => rw [hbusy] at hcount; cases hcount

/-- The step of a byte keeps the contexts: `SPI_BUSY` falls with the last byte of an SPI block command. -/
theorem blockByte_contextsOk {k : Block} {addr left : Nat} (hctx : ContextsOk s.cfg s.spi (s.run :: s.stack))
    (hactive : s.run.active = some (.block k addr left)) (hbyte : blockByte k addr left s = .next t) :
    ContextsOk s.cfg t.spi (t.run :: s.stack) := by
  have hok : 0 < left ∧ addr + left ≤ 2 ^ s.cfg.addrW := by
    simpa [Context.activeOk, hactive] using hctx.active s.run List.mem_cons_self
  have hrunning : s.run.inSpiBlock = k.isSpi := Context.inSpiBlock_of_block hactive
  obtain ⟨-, -, -, -, -, howner⟩ := blockByte_sameSurroundings hbyte
  obtain ⟨hzero, -⟩ | ⟨-, -, rfl⟩ | ⟨-, rest, hrest, rfl, rfl⟩ := blockByte_next hbyte
  · omega
  · cases hk : k.isSpi with
    | false =>
      refine hctx.setRunning howner rfl ?_ ?_
      · simp [hrunning, hk, Block.markBusy_spi, Context.inSpiBlock_of_idle]
      · simpa [hk, Block.markBusy_spi] using hctx.busyOn
    | true =>
      refine hctx.setRunning howner rfl ?_ ?_
      · simp [hrunning, hk, hctx.spiBusy (hrunning.trans hk), Block.markBusy_spi, Context.inSpiBlock_of_idle]
      · simp [hk, Block.markBusy_spi]
  · have hnext : ((k.access addr s).setActive (.block (k.afterByte addr s) (addr + 1) rest)).run.inSpiBlock = k.isSpi :=
      (Context.inSpiBlock_of_block rfl).trans (k.afterByte_isSpi addr s)
    refine hctx.setRunning howner ?_ ?_ (by simpa using hctx.busyOn)
    · simp only [State.setActive_run, Context.activeOk, Bool.and_eq_true, decide_eq_true_eq]
      omega
    · rw [hnext, hrunning, State.setActive_spi, Block.access_spi]

theorem blockByte_inv {k : Block} {addr left : Nat} (h : s.Inv) (hactive : s.run.active = some (.block k addr left))
    (hbyte : blockByte k addr left s = .next t) : t.Inv := by
  obtain ⟨hmem, htime, hctx, hpar, hwire⟩ := State.inv_iff.mp h
  obtain ⟨hcfg, -, htimeout, -, hirq, hpar', -, henv, hstack, -⟩ := blockByte_frame hbyte
  have hmem' : MemoryOk s.cfg t.mem :=
    hmem.of_storesAdmitted ((blockByte_mem hbyte).imp_right fun ⟨_, ha, v, hv⟩ => ⟨addr, v, ha, hv⟩)
  have hctx' : ContextsOk s.cfg t.spi (t.run :: s.stack) := blockByte_contextsOk hctx hactive hbyte
  refine State.inv_iff.mpr ?_
  rw [hcfg, htimeout, hirq, hpar', henv, hstack]
  exact ⟨hmem', htime, hctx', hpar, hwire⟩

theorem startBlock_inv {i : Instr} {k : Block} {addr len : Word} (h : s.Inv) (hidle : s.run.active = none)
    (hready : k.Ready addr len s) (hstart : startBlock i k addr len s = .next t) : t.Inv := by
  obtain ⟨-, rfl⟩ | ⟨hlen, hrange, -, hbyte⟩ | ⟨hlen, hrange, -, rfl⟩ := startBlock_next hstart
  · obtain ⟨hmem, htime, hctx, hpar, hwire⟩ := State.inv_iff.mp h
    exact State.inv_iff.mpr ⟨hmem, htime, hctx.complete hidle rfl id _ _, hpar, hwire⟩
  · refine blockByte_inv (k.started_inv h hidle hready hlen hrange) rfl ?_
    rw [Block.started, blockByte_setActive, hbyte]
  · exact k.started_inv h hidle hready hlen hrange

theorem startDelay_inv {usecs : Nat} (h : s.Inv) (hidle : s.run.active = none) (harch : s.cfg.arch = .wide32)
    (hle : usecs ≤ 1000 * (2 ^ 24 - 1)) : (startDelay usecs s).Inv := by
  obtain ⟨hmem, htime, hctx, hpar, hwire⟩ := State.inv_iff.mp h
  have hdrawn : ContextsOk s.cfg s.spi (s.run :: (drawDelays s.stack s.inputs.draws).1) :=
    hctx.mono (.cons ⟨rfl, rfl, id⟩ ((drawDelays_delayDrawn s.stack s.inputs.draws).imp fun _ _ => delayDrawn_keeps))
  rw [startDelay_eq]
  refine State.inv_iff.mpr ⟨hmem, htime, ?_, hpar, hwire⟩
  dsimp only
  split
  · exact hdrawn.complete hidle rfl id _ _
  · refine hdrawn.setRunning rfl ?_ ?_ hdrawn.busyOn
    · simpa [Context.activeOk, busyWith, harch] using hle
    · rw [Context.inSpiBlock_of_idle hidle]
      rfl

/-- A command issued by a context with nothing in progress keeps the invariant. -/
theorem exec_inv {i : Instr} (hwf : s.cfg.wf = true) (h : s.Inv) (hidle : s.run.active = none)
    (hexec : exec i s = .next t) : t.Inv := by
  obtain ⟨hmem, htime, hctx, hpar, hwire⟩ := State.inv_iff.mp h
  have hdone : ∀ r, ContextsOk s.cfg s.spi ((s.complete r).run :: s.stack) := fun r => hctx.complete hidle rfl id _ _
  cases commandStep_of_exec hexec with
  | startsBlock k addr len t hready hstart => exact startBlock_inv h hidle hready hstart
  | delays i n usecs _ harch hle => exact startDelay_inv h hidle harch hle
  | reports i r => exact State.inv_iff.mpr ⟨hmem, htime, hdone r, hpar, hwire⟩
  | exchanges i tx r => exact State.inv_iff.mpr ⟨hmem, htime, hdone r, hpar, hwire⟩
  | armsTimeout usecs hrange => exact State.inv_iff.mpr ⟨hmem, htime.arm hwf hrange, hdone _, hpar, hwire⟩
  | initsSpi p =>
    refine State.inv_iff.mpr ⟨hmem, htime, hctx.complete hidle ?_ ?_ _ _, hpar, hwire⟩
    exacts [rfl, fun _ => rfl]
  | selects dev =>
    refine State.inv_iff.mpr ⟨hmem, htime, hctx.complete hidle ?_ ?_ _ _, hpar, hwire⟩
    exacts [rfl, id]
  | setsSpeed p =>
    refine State.inv_iff.mpr ⟨hmem, htime, hctx.complete hidle ?_ ?_ _ _, hpar, hwire⟩
    exacts [rfl, id]
  | initsParallel hhas =>
    refine State.inv_iff.mpr ⟨hmem, htime, hdone _, ⟨rfl, rfl, fun _ => ⟨rfl, rfl⟩, fun _ => rfl, fun habsent => ?_⟩,
      hwire⟩
    exact absurd (hhas.symm.trans habsent) Bool.noConfusion
  | drivesLine l v =>
    rw [State.driveLine_eq_afterWire]
    exact State.inv_iff.mpr ⟨hmem, htime, hdone _, hpar.afterWire l _, hwire.afterWire l _⟩
  | armsAtn v hwired =>
    have hon : s.cfg.wiredAtn = false → False := fun hw => by simp [hwired] at hw
    cases v <;> exact State.inv_iff.mpr ⟨hmem, htime, hdone _, hpar, fun hw => (hon hw).elim, hwire.2⟩
  | armsClock v hwired =>
    have hon : s.cfg.wiredClock = false → False := fun hw => by simp [hwired] at hw
    cases v <;> exact State.inv_iff.mpr ⟨hmem, htime, hdone _, hpar, hwire.1, fun hw => (hon hw).elim⟩

end Commands

/-! ### Contexts, moves and the step -/

section Steps

variable {s t : State}

theorem contextStep_inv (hwf : s.cfg.wf = true) (h : s.Inv) (hstep : contextStep s = .next t) : t.Inv := by
  obtain ⟨hmem, htime, hctx, hpar, hwire⟩ := State.inv_iff.mp h
  cases contextStep_kind hstep with
  | takesByte k addr left t hactive hbyte => exact blockByte_inv h hactive hbyte
  | holds => exact h
  | endsDelay hactive =>
    refine State.inv_iff.mpr ⟨hmem, htime, hctx.setRunning rfl rfl ?_ hctx.busyOn, hpar, hwire⟩
    simp [Context.inSpiBlock, hactive]
  | endsProgram hidle =>
    rcases hstack : s.stack with - | ⟨c, rest⟩
    · rwa [State.endContext, hstack]
    · rw [State.endContext, hstack]
      rw [hstack] at hctx
      exact State.inv_iff.mpr ⟨hmem, htime, hctx.pop hidle, hpar, hwire⟩
  | jumps n => exact State.inv_iff.mpr ⟨hmem, htime, hctx.setRunning rfl
      (hctx.active s.run List.mem_cons_self) rfl hctx.busyOn, hpar, hwire⟩
  | runs i t hidle hexec => exact exec_inv hwf h hidle hexec

theorem setExt_inv (h : s.Inv) (levels : Lines) : (s.setExt levels).Inv := by
  obtain ⟨hmem, htime, hctx, hpar, hwire⟩ := State.inv_iff.mp h
  rw [State.setExt_eq_afterWire]
  exact State.inv_iff.mpr ⟨hmem, htime, hctx, (hpar.afterWire .atn _).afterWire .clock _,
    (hwire.afterWire .atn _).afterWire .clock _⟩

theorem setHsIn_inv (h : s.Inv) (level : Bool) : (s.setHsIn level).Inv := by
  cases hhas : s.cfg.hasParallel with
  | false => rwa [State.setHsIn, if_neg (by simp [hhas])]
  | true =>
    obtain ⟨hmem, htime, hctx, hpar, hwire⟩ := State.inv_iff.mp h
    rw [State.setHsIn_of_parallel hhas, State.hsEdge_eq_pendPar_hsPrev]
    refine State.inv_iff.mpr ⟨hmem, htime, hctx, { hpar with handshake := rfl, pendingEnabled := fun hpend => ?_ }, hwire⟩
    obtain hold | hnew := (Bool.or_eq_true _ _).mp hpend
    · exact hpar.pendingEnabled hold
    · exact ((Bool.and_eq_true _ _).mp hnew).1

theorem callerStore_inv (h : s.Inv) (a : Nat) (v : Byte) : (s.callerStore a v).Inv := by
  obtain ⟨hmem, htime, hctx, hpar, hwire⟩ := State.inv_iff.mp h
  have hmem' := hmem.of_storesAdmitted (t := s.callerStore a v) (move_storesAdmitted (e := .store a v) rfl)
  exact State.inv_iff.mpr (by simpa using ⟨hmem', htime, hctx, hpar, hwire⟩)

theorem deliver_inv (h : s.Inv) {src : Source} (hmay : s.mayDeliver src = true) : (s.deliver src).Inv := by
  obtain ⟨hmem, htime, hctx, hpar, hwire⟩ := State.inv_iff.mp h
  obtain ⟨-, -, -, hnest⟩ := State.mayDeliver_iff.mp hmay
  exact State.inv_iff.mpr (by simpa using ⟨hmem, htime, hctx.push src hnest, hpar.clear src, hwire.clear src⟩)

theorem move_inv {e : Event} (hwf : s.cfg.wf = true) (h : s.Inv) (hmove : move e s = .next t) : t.Inv := by
  obtain ⟨hmem, htime, hctx, hpar, hwire⟩ := State.inv_iff.mp h
  cases e with
  | run => exact contextStep_inv hwf h hmove
  | time =>
    obtain rfl := Host.Outcome.next.inj hmove
    exact State.inv_iff.mpr ⟨hmem, htime.tick, hctx.tick, hpar, hwire⟩
  | ext levels =>
    obtain rfl := Host.Outcome.next.inj hmove
    exact setExt_inv h levels
  | hsIn level =>
    obtain rfl := Host.Outcome.next.inj hmove
    exact setHsIn_inv h level
  | cpuIe enable =>
    obtain rfl := Host.Outcome.next.inj hmove
    exact State.inv_iff.mpr ⟨hmem, htime, hctx, hpar, hwire⟩
  | store a v =>
    obtain rfl := Host.Outcome.next.inj hmove
    exact callerStore_inv h a v
  | deliver src =>
    obtain rfl := Host.Outcome.next.inj hmove
    cases hmay : s.mayDeliver src with
    | true => rw [State.tryDeliver_of_mayDeliver hmay]; exact deliver_inv h hmay
    | false => rwa [State.tryDeliver, if_neg (by simp [hmay])]

/-- The invariant looks at neither the schedule nor the inputs. -/
theorem inv_congr_sched_inputs (sched : Sched) (inputs : Inputs) :
    State.Inv { s with sched := sched, inputs := inputs } ↔ s.Inv := by
  rw [State.inv_iff, State.inv_iff]

end Steps

/-- Settles O60: the step is a move up to the schedule and the draws, under a well-formed configuration. -/
theorem stepKeepsTheInvariant : Obligations.StepKeepsTheInvariant := by
  intro s t h hstep
  have hwf : s.cfg.wf = true := wf_of_launchRefusal (step_next hstep).1
  obtain ⟨sched, e, u, draws, hmove, rfl⟩ := move_of_step hstep
  have hu : u.Inv := move_inv (s := { s with sched := sched }) hwf ((inv_congr_sched_inputs sched s.inputs).mpr h) hmove
  exact (inv_congr_sched_inputs u.sched _).mpr hu

/-- Settles O59: at reset nothing counts, nothing is armed or pending and the main path runs alone. -/
theorem resetMeetsTheInvariant : Obligations.ResetMeetsTheInvariant := by
  have hlaunch : ∀ l : Launch, l.mem.wf = true → (∀ c ∈ l.mem, c.1 < 2 ^ l.cfg.addrW) → (State.launch l).Inv := by
    intro l hform hbound
    refine State.inv_iff.mpr ⟨⟨hform, hbound⟩, ⟨Nat.zero_le _, nofun, Nat.mod_lt _ (Nat.two_pow_pos _)⟩,
      ⟨rfl, fun _ => Nat.le_succ 1, ?_, rfl, nofun⟩, ⟨rfl, rfl, nofun, nofun, fun _ => rfl⟩,
      fun _ => ⟨rfl, rfl⟩, fun _ => ⟨rfl, rfl⟩⟩
    exact List.forall_mem_singleton.mpr rfl
  exact ⟨hlaunch Launch.default rfl (by simp [Launch.default]), hlaunch⟩

end Sys2Proof.Machine
end

section
/-!
PROOFS. Block commands byte by byte (spec/20_memory.md R62, R63, R67, spec/43_crc.md R176, R177, spec/44_spi.md R203,
R204): their issue and their next byte, one rule over the kinds of block command for each.
-/

namespace Sys2Proof.Machine

open Sys2Proof.Claims

/-! ### One byte -/

/-- The machine after a block command with `left` bytes to go has taken the byte at an address: what the access does, and
`SPI_BUSY` as `busy` says for an SPI block command. -/
def Block.tookByte (k : Block) (addr left : Nat) (busy : Bool) (s : State) : State :=
  { k.access addr s with
    spi := if k.isSpi = true then { s.spi with spiBusy := busy } else s.spi
    run := afterOneByte s left (k.afterByte addr s).result (k.afterByte addr s) (addr + 1) }

/-- At an admitted address the byte is taken, and the last one clears `SPI_BUSY`. -/
theorem blockByte_eq_tookByte {k : Block} {addr left : Nat} {s : State} (hleft : 0 < left) (ha : s.admits addr = true) :
    blockByte k addr left s = .next (k.tookByte addr left (if left = 1 then false else s.spi.spiBusy) s) := by
  obtain ⟨rest, rfl⟩ := Nat.exists_eq_succ_of_ne_zero hleft.ne'
  rw [blockByte_admitted ha]
  by_cases hrest : rest = 0
  · subst hrest
    cases k <;> rfl
  · have hmore : rest.succ ≠ 1 := fun h => hrest (Nat.succ.inj h)
    simp only [Block.tookByte, afterOneByte, hrest, hmore, if_false]
    cases k <;> rfl

theorem contextStep_of_block {s : State} {k : Block} {addr left : Nat}
    (hactive : s.run.active = some (.block k addr left)) : contextStep s = blockByte k addr left s := by
  simp only [contextStep, hactive]

/-- Settles O54: the byte is taken, or its address is not admitted and there is no step. -/
theorem blockCommandsTakeTheirNextByte : Obligations.BlockCommandsTakeTheirNextByte := by
  intro s addr left hleft
  have htook : ∀ k, s.run.active = some (.block k addr left) → s.admits addr = true →
      contextStep s = .next (k.tookByte addr left (if left = 1 then false else s.spi.spiBusy) s) := fun k hactive ha =>
    (contextStep_of_block hactive).trans (blockByte_eq_tookByte hleft ha)
  refine ⟨fun k hactive ha => (contextStep_of_block hactive).trans (blockByte_unadmitted hleft ha),
    fun acc => htook (.crc7 acc), fun acc => htook (.crc16 acc), htook .spiTx, fun hactive ha hwf => ?_⟩
  exact ⟨s.mem.write addr s.received, htook .spiRx hactive ha, Memory.read_write_same hwf addr _,
    fun b hb => Memory.read_write_other s.mem hb _⟩

/-! ### The issue -/

section Issue

variable {k : Block} {addr len : Word} {s : State} (hready : k.Ready addr len s)
include hready

theorem exec_blockCommand_empty (hlen : len = 0#32) :
    exec (blockCommand k addr len) s = .next { s with run := doneWith s k.result } :=
  (exec_blockCommand hready).trans (if_pos hlen)

theorem exec_blockCommand_wrap (hlen : len ≠ 0#32) (hwrap : 2 ^ s.cfg.addrW < addr.toNat + len.toNat) :
    exec (blockCommand k addr len) s = .fault (.addrWrap (encode (blockCommand k addr len)).w0 addr len) := by
  rw [exec_blockCommand hready, startBlock, if_neg hlen, if_pos hwrap]

/-- The issue takes the first byte, and leaves `SPI_BUSY` 1 unless it was the only one. -/
theorem exec_blockCommand_admitted (hlen : len ≠ 0#32) (hrange : addr.toNat + len.toNat ≤ 2 ^ s.cfg.addrW)
    (ha : s.admits addr.toNat = true) :
    exec (blockCommand k addr len) s = .next (k.tookByte addr.toNat len.toNat (decide (len ≠ 1#32)) s) := by
  have hpos : 0 < len.toNat := Nat.pos_of_ne_zero fun h => hlen (BitVec.eq_of_toNat_eq h)
  have hone : len.toNat = 1 ↔ len = 1#32 := (BitVec.toNat_inj (x := len) (y := 1#32))
  have hbusy : decide (len ≠ 1#32) = if len.toNat = 1 then false else true := by
    by_cases h1 : len = 1#32 <;> simp [hone, h1]
  rw [exec_blockCommand hready, startBlock_admitted hlen hrange ha, blockByte_eq_tookByte hpos (by simpa using ha), hbusy]
  cases k <;> rfl

/-- Where the first byte is not admitted the command has started and its context stands at it (log 18). -/
theorem exec_blockCommand_stuck (hlen : len ≠ 0#32) (hrange : addr.toNat + len.toNat ≤ 2 ^ s.cfg.addrW)
    (ha : s.admits addr.toNat = false) :
    exec (blockCommand k addr len) s = .next (k.started addr len s) ∧
      contextStep (k.started addr len s) = .fault (.stuckUnadmitted addr.toNat) := by
  have hpos : 0 < len.toNat := Nat.pos_of_ne_zero fun h => hlen (BitVec.eq_of_toNat_eq h)
  refine ⟨(exec_blockCommand hready).trans (startBlock_unadmitted hlen hrange ha), ?_⟩
  rw [contextStep_of_block (k := k) (addr := addr.toNat) (left := len.toNat) rfl]
  exact blockByte_unadmitted hpos (by rw [Block.started]; simpa [State.admits] using ha)

end Issue

/-- Settles O31: the issue of a block command, for CRC-7. -/
theorem crc7BlockTakesItsFirstByte : Obligations.Crc7BlockTakesItsFirstByte := by
  intro s acc addr len hwf
  have hready : (Block.crc7 acc).Ready addr len s := ⟨hwf, nofun⟩
  refine ⟨exec_blockCommand_empty hready, exec_blockCommand_admitted hready, exec_blockCommand_wrap hready,
    fun hlen hrange ha => ⟨_, rfl, exec_blockCommand_stuck hready hlen hrange ha⟩⟩

/-- Settles O32: the issue of a block command, for CRC-16. -/
theorem crc16BlockTakesItsFirstByte : Obligations.Crc16BlockTakesItsFirstByte := by
  intro s acc addr len hwf
  have hready : (Block.crc16 acc).Ready addr len s := ⟨hwf, nofun⟩
  refine ⟨exec_blockCommand_empty hready, exec_blockCommand_admitted hready, exec_blockCommand_wrap hready,
    fun hlen hrange ha => ⟨_, rfl, exec_blockCommand_stuck hready hlen hrange ha⟩⟩

/-- Settles O42: the issue of a block command, for a transmission. -/
theorem spiTxBlockSendsItsFirstByte : Obligations.SpiTxBlockSendsItsFirstByte := by
  intro s addr len hwf hon hidle
  have hready : Block.spiTx.Ready addr len s := ⟨hwf, fun _ => ⟨hon, hidle⟩⟩
  refine ⟨exec_blockCommand_empty hready, exec_blockCommand_admitted hready, exec_blockCommand_wrap hready,
    fun hlen hrange ha => ⟨_, rfl, exec_blockCommand_stuck hready hlen hrange ha⟩⟩

/-- Settles O43: the issue of a block command, for a receive, which stores the byte received at its address. -/
theorem spiRxBlockStoresItsFirstByte : Obligations.SpiRxBlockStoresItsFirstByte := by
  intro s addr len hwf hon hidle hmem
  have hready : Block.spiRx.Ready addr len s := ⟨hwf, fun _ => ⟨hon, hidle⟩⟩
  refine ⟨exec_blockCommand_empty hready, fun hlen hrange ha => ⟨s.mem.write addr.toNat s.received, ?_, ?_, ?_⟩,
    exec_blockCommand_wrap hready, fun hlen hrange ha => ⟨_, rfl, exec_blockCommand_stuck hready hlen hrange ha⟩⟩
  · exact exec_blockCommand_admitted hready hlen hrange ha
  · exact Memory.read_write_same hmem addr.toNat _
  · exact fun b hb => Memory.read_write_other s.mem hb _

end Sys2Proof.Machine
end

section
/-!
PROOFS. Whole SPI block transfers with no move between their bytes (spec/44_spi.md R203, R204): first that the context
makes every access in order and completes, then what the accesses send and store.
-/

namespace Sys2Proof.Machine

open Sys2Proof.Claims

/-! ### The steps of a whole transfer -/

/-- The accesses of a block command at successive addresses. -/
def Block.accesses (k : Block) (addr : Nat) : Nat → State → State
  | 0, s => s
  | n + 1, s => k.accesses (addr + 1) n (k.access addr s)

theorem Block.accesses_run (k : Block) (addr n : Nat) (s : State) : (k.accesses addr n s).run = s.run := by
  induction n generalizing addr s with
  | zero => rfl
  | succ n ih => exact (ih (addr + 1) (k.access addr s)).trans (by simp)

theorem Block.accesses_spi (k : Block) (addr n : Nat) (s : State) : (k.accesses addr n s).spi = s.spi := by
  induction n generalizing addr s with
  | zero => rfl
  | succ n ih => exact (ih (addr + 1) (k.access addr s)).trans (by simp)

/-- The accesses do not look at the command in progress. -/
theorem Block.accesses_setActive (k : Block) (addr n : Nat) (s : State) (a : Active) :
    k.accesses addr n (s.setActive a) = (k.accesses addr n s).setActive a := by
  induction n generalizing addr s with
  | zero => rfl
  | succ n ih =>
    have haccess : k.access addr (s.setActive a) = (k.access addr s).setActive a := by cases k <;> rfl
    rw [Block.accesses, haccess, ih]
    rfl

/-- Completing ends whatever command is in progress. -/
theorem Block.markBusy_setActive_complete (k : Block) (v : Bool) (s : State) (a : Active) (r : Word) :
    (k.markBusy v (s.setActive a)).complete r = (k.markBusy v s).complete r := by
  cases k <;> rfl

/-- What an SPI block command holds is its kind alone, and its result is 0. -/
theorem Block.afterByte_of_isSpi {k : Block} (hk : k.isSpi = true) (addr : Nat) (s : State) :
    k.afterByte addr s = k ∧ k.result = 0#32 := by
  cases k with
  | crc7 acc | crc16 acc => cases hk
  | spiTx | spiRx => exact ⟨rfl, rfl⟩

/-- The bytes after the first of an admitted range are admitted. -/
theorem admits_succ {s : State} {addr n : Nat} (h : ∀ j < n + 1, s.admits (addr + j) = true) :
    ∀ j < n, s.admits (addr + 1 + j) = true := by
  intro j hj
  rw [Nat.add_assoc, Nat.add_comm 1 j]
  exact h (j + 1) (Nat.succ_lt_succ hj)

theorem contextRun_succ {s t : State} (h : contextStep s = .next t) (n : Nat) :
    contextRun (n + 1) s = contextRun n t := by
  rw [contextRun, h]

/-- An SPI block command over admitted bytes makes its accesses in ascending order, and completes with `SPI_BUSY` 0. -/
theorem contextRun_spiBlock {k : Block} (hk : k.isSpi = true) {n addr : Nat} {s : State}
    (hactive : s.run.active = some (.block k addr (n + 1))) (hadmits : ∀ j < n + 1, s.admits (addr + j) = true) :
    contextRun (n + 1) s = .next ((k.markBusy false (k.accesses addr (n + 1) s)).complete 0#32) := by
  induction n generalizing addr s with
  | zero =>
    have hstep := (contextStep_of_block hactive).trans (blockByte_admitted (hadmits 0 Nat.one_pos))
    obtain ⟨hkind, hresult⟩ := k.afterByte_of_isSpi hk addr s
    rw [if_pos rfl, hkind, hresult] at hstep
    exact contextRun_succ hstep 0
  | succ n ih =>
    have hstep := (contextStep_of_block hactive).trans (blockByte_admitted (hadmits 0 n.succ.succ_pos))
    rw [if_neg n.succ_ne_zero, (k.afterByte_of_isSpi hk addr s).1] at hstep
    rw [contextRun_succ hstep, ih rfl, Block.accesses_setActive, Block.markBusy_setActive_complete]
    · rfl
    · intro j hj
      rw [State.admits_congr (s := s) (by simp) (by simp)]
      exact admits_succ hadmits j hj

/-- The issue of a block command is the first step of the command once started. -/
theorem exec_blockCommand_eq_contextStep {k : Block} {addr len : Word} {s : State} (hready : k.Ready addr len s)
    (hlen : len ≠ 0#32) (hrange : addr.toNat + len.toNat ≤ 2 ^ s.cfg.addrW) (ha : s.admits addr.toNat = true) :
    exec (blockCommand k addr len) s = contextStep (k.started addr len s) := by
  rw [contextStep_of_block (k := k) (addr := addr.toNat) (left := len.toNat) rfl, Block.started, blockByte_setActive,
    exec_blockCommand hready, startBlock_admitted hlen hrange ha]

/-- A whole SPI block command, from its issue: its accesses in order, and the SPI fields as they were. -/
theorem exec_contextRun_spiBlock {k : Block} (hk : k.isSpi = true) {addr len : Word} {s : State}
    (hready : k.Ready addr len s) (hlen : len ≠ 0#32) (hrange : addr.toNat + len.toNat ≤ 2 ^ s.cfg.addrW)
    (hadmits : ∀ j < len.toNat, s.admits (addr.toNat + j) = true) :
    ∃ t u, exec (blockCommand k addr len) s = .next t ∧ contextRun (len.toNat - 1) t = .next u ∧
      u.run = doneWith s 0#32 ∧ u.spi = s.spi ∧
      u.mem = (k.accesses addr.toNat len.toNat (k.markBusy true s)).mem ∧
      u.spiOut = (k.accesses addr.toNat len.toNat (k.markBusy true s)).spiOut := by
  obtain ⟨n, hn⟩ := Nat.exists_eq_succ_of_ne_zero fun h => hlen (BitVec.eq_of_toNat_eq h)
  have ha : s.admits addr.toNat = true := hadmits 0 (by omega)
  have hstarted : ∀ j < n + 1, (k.started addr len s).admits (addr.toNat + j) = true := fun j hj =>
    (k.markBusy_admits true s _).trans (hadmits j (by omega))
  have hrun := contextRun_spiBlock hk (congrArg (fun left => some (Active.block k addr.toNat left)) hn) hstarted
  have hexec := exec_blockCommand_admitted hready hlen hrange ha
  rw [contextRun_succ ((exec_blockCommand_eq_contextStep hready hlen hrange ha).symm.trans hexec), Block.started,
    Block.accesses_setActive, Block.markBusy_setActive_complete] at hrun
  rw [hn, Nat.succ_sub_one]
  refine ⟨_, _, hexec, hrun, ?_, ?_, by simp, by simp⟩
  · simp [Block.accesses_run, doneWith]
  · simp only [State.complete_spi, Block.markBusy_spi, if_pos hk, Block.accesses_spi]
    rw [← (hready.2 hk).2]

/-! ### Transmission (R203) -/

/-- The transmissions leave memory and the SPI fields, and send the bytes of memory in ascending order. -/
theorem accesses_spiTx (addr n : Nat) (s : State) :
    (Block.spiTx.accesses addr n s).mem = s.mem ∧
    (Block.spiTx.accesses addr n s).spiOut =
      s.spiOut ++ (s.bytesAt addr n).map fun b => .exchange ⟨s.cs0, s.cs1, s.spi.spiSpeed, b⟩ := by
  induction n generalizing addr s with
  | zero => exact ⟨rfl, (List.append_nil _).symm⟩
  | succ n ih =>
    obtain ⟨hmem, hout⟩ := ih (addr + 1) (s.exchanged (s.readByte addr))
    refine ⟨hmem, hout.trans ?_⟩
    rw [State.bytesAt_congr (s := s) (t := s.exchanged (s.readByte addr)) rfl]
    exact List.append_assoc _ _ _

/-- Settles O44: the accesses are the exchanges, in order. -/
theorem spiTxBlockSendsEveryByte : Obligations.SpiTxBlockSendsEveryByte := by
  intro s addr len hwf hon hidle hlen hrange hadmits
  obtain ⟨t, u, hexec, hrun, hdone, hspi, hmem, hout⟩ :=
    exec_contextRun_spiBlock (k := .spiTx) rfl ⟨hwf, fun _ => ⟨hon, hidle⟩⟩ hlen hrange hadmits
  obtain ⟨hmem', hout'⟩ := accesses_spiTx addr.toNat len.toNat (Block.spiTx.markBusy true s)
  refine ⟨t, u, hexec, hrun, hdone, hspi, hmem.trans hmem', (hout.trans hout').trans ?_⟩
  rw [State.bytesAt_congr (s := s) (t := Block.spiTx.markBusy true s) rfl]
  rfl

/-! ### Reception (R204) -/

/-- Each reception of an answer that is ready stores it at its address. -/
theorem access_spiRx_mem {s : State} {b : Byte} {rest : List Byte} (hin : s.inputs.spiIn = b :: rest) (addr : Nat) :
    (Block.spiRx.access addr s).mem = s.mem.write addr b ∧ (Block.spiRx.access addr s).inputs.spiIn = rest := by
  have hreceived : s.received = b := by simp only [State.received, hin]
  have hafter : s.inputs.afterByte.spiIn = rest := by simp only [Inputs.afterByte, hin]
  exact ⟨congrArg (s.mem.write addr) hreceived, hafter⟩

/-- The receptions send the fill byte. -/
theorem accesses_spiRx_spiOut (addr n : Nat) (s : State) : (Block.spiRx.accesses addr n s).spiOut =
    s.spiOut ++ List.replicate n (.exchange ⟨s.cs0, s.cs1, s.spi.spiSpeed, 0xFF#8⟩) := by
  induction n generalizing addr s with
  | zero => exact (List.append_nil _).symm
  | succ n ih => exact (ih (addr + 1) (Block.spiRx.access addr s)).trans (List.append_assoc _ _ _)

/-- The receptions store the answers that are ready in ascending order, and leave every other byte. -/
theorem accesses_spiRx_mem {addr : Nat} {answers rest : List Byte} {s : State} (hwf : s.mem.wf = true)
    (hin : s.inputs.spiIn = answers ++ rest) :
    (Block.spiRx.accesses addr answers.length s).bytesAt addr answers.length = answers ∧
    ∀ a, a < addr ∨ addr + answers.length ≤ a →
      (Block.spiRx.accesses addr answers.length s).readByte a = s.readByte a := by
  induction answers generalizing addr s with
  | nil => exact ⟨rfl, fun _ _ => rfl⟩
  | cons b answers ih =>
    obtain ⟨hmem, hin'⟩ := access_spiRx_mem hin addr
    have hwf' : (Block.spiRx.access addr s).mem.wf = true := by
      rw [hmem]
      exact Memory.wf_write hwf addr b
    obtain ⟨hbytes, hother⟩ := ih (addr := addr + 1) hwf' hin'
    constructor
    · have hfirst : (Block.spiRx.access addr s).readByte addr = b := by
        rw [State.readByte, hmem]
        exact Memory.read_write_same hwf addr b
      exact congr (congrArg List.cons ((hother addr (.inl addr.lt_succ_self)).trans hfirst)) hbytes
    · intro a ha
      rw [List.length_cons] at ha
      exact (hother a (by omega)).trans (readByte_of_write hmem (by omega))

/-- Settles O45: the accesses are the receptions, in order. -/
theorem spiRxBlockStoresEveryAnswer : Obligations.SpiRxBlockStoresEveryAnswer := by
  intro s addr len answers rest hwf hon hidle hmem hlen hrange hadmits hin hlength
  obtain ⟨t, u, hexec, hrun, hdone, hspi, hmem', hout⟩ :=
    exec_contextRun_spiBlock (k := .spiRx) rfl ⟨hwf, fun _ => ⟨hon, hidle⟩⟩ hlen hrange hadmits
  rw [← hlength] at hmem' hout ⊢
  obtain ⟨hbytes, hother⟩ := accesses_spiRx_mem (addr := addr.toNat) (s := Block.spiRx.markBusy true s) hmem hin
  refine ⟨t, u, hexec, by rwa [hlength], hdone, hspi, (State.bytesAt_congr hmem' _ _).trans hbytes,
    fun a ha => (State.readByte_congr hmem' a).trans (hother a ha), hout.trans (accesses_spiRx_spiOut _ _ _)⟩

end Sys2Proof.Machine
end

section
/-!
PROOFS. A CRC block command under any interleaving without a delivery (spec/43_crc.md R178): the moves that leave the
running context's command alone, and the fold of the update over the bytes of memory.
-/

namespace Sys2Proof.Machine

open Sys2Proof.Claims

/-! ### Time steps one after the other -/

theorem timeSteps_add (m n : Nat) (s : State) : timeSteps (m + n) s = timeSteps n (timeSteps m s) := by
  induction m generalizing s with
  | zero => rw [Nat.zero_add, timeSteps]
  | succ m ih => rw [Nat.succ_add, timeSteps, ih, timeSteps]

theorem timeSteps_cfg (n : Nat) (s : State) : (timeSteps n s).cfg = s.cfg := by
  induction n generalizing s with
  | zero => rfl
  | succ n ih => exact ih s.timeStep

/-- The counters after some time depend on the counters before it. -/
theorem timeSteps_congr (n : Nat) {s t : State} (hcfg : t.cfg = s.cfg) (htimeout : t.timeout = s.timeout)
    (hstack : t.stack = s.stack) :
    (timeSteps n t).timeout = (timeSteps n s).timeout ∧ (timeSteps n t).stack = (timeSteps n s).stack := by
  induction n generalizing s t with
  | zero => exact ⟨htimeout, hstack⟩
  | succ n ih => exact ih (s := s.timeStep) (t := t.timeStep) hcfg (by simp [htimeout, hcfg]) (by simp [hstack])

/-! ### What moves leave -/

/-- A state that differs in its running context is left by no move at all. -/
theorem leftByMoves_nil {s t : State} (run : Context) (h : t = { s with run := run }) : LeftByMoves [] s t := by
  subst h
  exact ⟨rfl, rfl, rfl, rfl, rfl, rfl, rfl, rfl, rfl, fun _ => ⟨rfl, rfl, rfl⟩, fun _ => ⟨rfl, rfl, rfl⟩, fun _ => rfl,
    fun _ _ => rfl⟩

/-- A step of the running context that writes its context alone. -/
theorem leftByMoves_run {s t : State} (run : Context) (h : t = { s with run := run }) : LeftByMoves [.run] s t := by
  subst h
  exact ⟨rfl, rfl, rfl, rfl, rfl, rfl, rfl, rfl, rfl, fun _ => ⟨rfl, rfl, rfl⟩, fun _ => ⟨rfl, rfl, rfl⟩, fun _ => rfl,
    fun _ _ => rfl⟩

/-- What some moves leave and then others, under the same configuration. -/
theorem leftByMoves_append {moves moves' : List Event} {s t u : State} (h : LeftByMoves moves s t)
    (h' : LeftByMoves moves' t u) (hcfg : t.cfg = s.cfg) : LeftByMoves (moves ++ moves') s u := by
  obtain ⟨hout, hspi, hspiOut, hinputs, hatn, hclock, hpar, htimeout, hstack, hext, hhs, hie, hmem⟩ := h
  obtain ⟨hout', hspi', hspiOut', hinputs', hatn', hclock', hpar', htimeout', hstack', hext', hhs', hie', hmem'⟩ := h'
  obtain ⟨hcounters, hcounters'⟩ := timeSteps_congr (moves'.count .time) (s := timeSteps (moves.count .time) s)
    (hcfg.trans (timeSteps_cfg _ s).symm) htimeout hstack
  have hsum : timeSteps ((moves ++ moves').count .time) s =
      timeSteps (moves'.count .time) (timeSteps (moves.count .time) s) := by
    rw [List.count_append, timeSteps_add]
  refine ⟨hout'.trans hout, hspi'.trans hspi, hspiOut'.trans hspiOut, hinputs'.trans hinputs, hatn'.trans hatn,
    hclock'.trans hclock, ?_, ?_, ?_, fun hno => ?_, fun hno => ?_, fun hno => ?_, fun a hno => ?_⟩
  · rw [hpar', hpar]
  · rw [hsum, htimeout', hcounters]
  · rw [hsum, hstack', hcounters']
  · simp only [List.mem_append, not_or] at hno
    obtain ⟨h1, h2, h3⟩ := hext fun levels => (hno levels).1
    obtain ⟨h1', h2', h3'⟩ := hext' fun levels => (hno levels).2
    exact ⟨h1'.trans h1, h2'.trans h2, h3'.trans h3⟩
  · simp only [List.mem_append, not_or] at hno
    obtain ⟨h1, h2, h3⟩ := hhs fun level => (hno level).1
    obtain ⟨h1', h2', h3'⟩ := hhs' fun level => (hno level).2
    exact ⟨h1'.trans h1, h2'.trans h2, h3'.trans h3⟩
  · simp only [List.mem_append, not_or] at hno
    exact (hie' fun enable => (hno enable).2).trans (hie fun enable => (hno enable).1)
  · simp only [List.mem_append, not_or] at hno
    exact (hmem' a fun v => (hno v).2).trans (hmem a fun v => (hno v).1)

/-- A move of the environment, and no delivery, leaves what the one move may. -/
theorem leftByMoves_of_move {e : Event} {s t : State} (h : move e s = .next t) (hrun : e ≠ .run)
    (hdeliver : ∀ src, e ≠ .deliver src) : LeftByMoves [e] s t := by
  cases e with
  | run => exact absurd rfl hrun
  | deliver src => exact absurd rfl (hdeliver src)
  | time =>
    obtain rfl := Host.Outcome.next.inj h
    simp [LeftByMoves, timeSteps, State.readByte]
  | ext levels =>
    obtain rfl := Host.Outcome.next.inj h
    rw [State.setExt_eq_afterWire]
    simp [LeftByMoves, timeSteps, State.readByte, IrqUnit.afterWire]
  | hsIn level =>
    obtain rfl := Host.Outcome.next.inj h
    cases hhas : s.cfg.hasParallel with
    | false => simp [State.setHsIn, hhas, LeftByMoves, timeSteps]
    | true =>
      rw [State.setHsIn_of_parallel hhas, State.hsEdge_eq_pendPar_hsPrev]
      simp [LeftByMoves, timeSteps, State.readByte]
  | cpuIe enable =>
    obtain rfl := Host.Outcome.next.inj h
    simp [LeftByMoves, timeSteps, State.readByte]
  | store a v =>
    obtain rfl := Host.Outcome.next.inj h
    have hother : ∀ b, b ≠ a → (s.callerStore a v).readByte b = s.readByte b := by
      intro b hb
      cases ha : s.admits a with
      | true => rw [State.callerStore_of_admits ha]; exact s.writeByte_readByte_other hb v
      | false => rw [State.callerStore_of_not_admits ha]
    simpa [LeftByMoves, timeSteps] using hother

/-! ### Quiet moves beside a block command -/

theorem quiet_not_deliver {base len : Nat} {e : Event} (h : quiet base len e = true) (src : Source) :
    e ≠ .deliver src := by
  rintro rfl
  cases h

/-- A range that is left alone is left alone from its second byte on. -/
theorem quiet_succ {base len : Nat} {e : Event} (h : quiet base (len + 1) e = true) :
    quiet (base + 1) len e = true := by
  cases e with
  | store a v =>
    simp only [quiet, Bool.or_eq_true, decide_eq_true_eq] at h ⊢
    omega
  | _ => exact h

/-- Moves but a delivery leave a running context that is in no delay. -/
theorem move_run_of_no_delay {e : Event} {s t : State} (h : move e s = .next t) (hrun : e ≠ .run)
    (hdeliver : ∀ src, e ≠ .deliver src) (hdelay : ∀ left, s.run.active ≠ some (.delay left)) : t.run = s.run := by
  cases e with
  | run => exact absurd rfl hrun
  | deliver src => exact absurd rfl (hdeliver src)
  | time =>
    obtain rfl := Host.Outcome.next.inj h
    rcases hactive : s.run.active with - | ⟨left⟩ | ⟨k, addr, left⟩
    · simp [Context.tick, hactive]
    · exact absurd hactive (hdelay left)
    · simp [Context.tick, hactive]
  | _ =>
    obtain rfl := Host.Outcome.next.inj h
    simp

/-- A quiet move leaves the bytes of its range. -/
theorem bytesAt_of_quiet {e : Event} {s t : State} {base len : Nat} (h : LeftByMoves [e] s t)
    (hquiet : quiet base len e = true) : t.bytesAt base len = s.bytesAt base len := by
  obtain ⟨-, -, -, -, -, -, -, -, -, -, -, -, hmem⟩ := h
  have hbyte : ∀ a, base ≤ a → a < base + len → t.readByte a = s.readByte a := by
    refine fun a hlow hhigh => hmem a fun v hv => ?_
    obtain rfl := List.mem_singleton.mp hv
    simp only [quiet, Bool.or_eq_true, decide_eq_true_eq] at hquiet
    omega
  clear hmem hquiet
  induction len generalizing base with
  | zero => rfl
  | succ n ih =>
    rw [State.bytesAt, State.bytesAt, hbyte base (Nat.le_refl _) (by omega),
      ih fun a hlow hhigh => hbyte a (by omega) (by omega)]

/-! ### The fold of a CRC block command (R176 to R178) -/

/-- A CRC block command's kind once it has taken some bytes. -/
def Block.fold : Block → List Byte → Block
  | .crc7 acc, bytes => .crc7 (crc7Fold acc bytes)
  | .crc16 acc, bytes => .crc16 (crc16Fold acc bytes)
  | .spiTx, _ => .spiTx
  | .spiRx, _ => .spiRx

theorem Block.fold_nil (k : Block) : k.fold [] = k := by cases k <;> rfl

/-- The first byte is folded, then the others, whatever the running context is. -/
theorem Block.fold_bytesAt (k : Block) (addr n : Nat) (s : State) (run : Context) :
    (k.afterByte addr s).fold (State.bytesAt { s with run := run } (addr + 1) n) = k.fold (s.bytesAt addr (n + 1)) := by
  rw [State.bytesAt_congr (s := s) (t := { s with run := run }) rfl]
  cases k <;> rfl

/-- The context of a block command with `left` bytes to go: in progress, or done with its result. -/
def blockContext (s : State) (k : Block) (addr left : Nat) : Context :=
  if left = 0 then doneWith s k.result else busyWith s (.block k addr left)

theorem blockContext_ne_delay (s : State) (k : Block) (addr left n : Nat) :
    (blockContext s k addr left).active ≠ some (.delay n) := by
  unfold blockContext
  split <;> exact nofun

/-- A byte of a CRC block command writes its context alone. -/
theorem Block.tookByte_crc {k : Block} (hk : k.isSpi = false) (addr left : Nat) (busy : Bool) (s : State) :
    k.tookByte addr (left + 1) busy s = { s with run := blockContext s (k.afterByte addr s) (addr + 1) left } := by
  have hcontext : afterOneByte s (left + 1) (k.afterByte addr s).result (k.afterByte addr s) (addr + 1) =
      blockContext s (k.afterByte addr s) (addr + 1) left := by
    simp only [afterOneByte, blockContext, Nat.add_eq_right, Nat.add_sub_cancel]
  rw [Block.tookByte, hcontext]
  cases k with
  | crc7 acc | crc16 acc => rfl
  | spiTx | spiRx => cases hk

/-- Through quiet moves with exactly its steps among them, a CRC block command folds the bytes ahead of it and ends. -/
theorem runMoves_crcBlock {moves : List Event} {k : Block} {addr : Nat} {c s : State} (hk : k.isSpi = false)
    (hctx : s.run = blockContext c k addr (moves.count .run))
    (hadmits : ∀ j < moves.count .run, s.admits (addr + j) = true)
    (hquiet : ∀ e ∈ moves, quiet addr (moves.count .run) e = true) :
    ∃ u, runMoves moves s = .next u ∧
      u.run = doneWith c (k.fold (s.bytesAt addr (moves.count .run))).result ∧ LeftByMoves moves s u := by
  induction moves generalizing k addr s with
  | nil =>
    refine ⟨s, rfl, ?_, leftByMoves_nil s.run rfl⟩
    rw [hctx, List.count_nil, State.bytesAt, Block.fold_nil]
    rfl
  | cons e rest ih =>
    by_cases he : e = .run
    · subst he
      simp only [List.count_cons_self] at hctx hadmits hquiet ⊢
      have hactive : s.run.active = some (.block k addr (rest.count .run + 1)) := by
        rw [hctx, blockContext, if_neg (Nat.succ_ne_zero _)]
        rfl
      have hstep := (contextStep_of_block hactive).trans
        (blockByte_eq_tookByte (Nat.succ_pos _) (hadmits 0 (Nat.succ_pos _)))
      rw [Block.tookByte_crc hk] at hstep
      have hctx' : blockContext s (k.afterByte addr s) (addr + 1) (rest.count .run) =
          blockContext c (k.afterByte addr s) (addr + 1) (rest.count .run) := by
        simp only [blockContext, doneWith, busyWith, hctx, Nat.succ_ne_zero, if_false]
      obtain ⟨u, hmoves, hdone, hleft⟩ := ih (k := k.afterByte addr s) (addr := addr + 1)
        (s := { s with run := blockContext s (k.afterByte addr s) (addr + 1) (rest.count .run) })
        ((k.afterByte_isSpi addr s).trans hk) hctx'
        (admits_succ hadmits)
        (fun e he => quiet_succ (hquiet e (List.mem_cons_of_mem _ he)))
      refine ⟨u, ?_, ?_, ?_⟩
      · rw [runMoves, move, hstep]
        exact hmoves
      · rw [hdone, Block.fold_bytesAt]
      · exact leftByMoves_append (moves := [.run]) (leftByMoves_run _ rfl) hleft rfl
    · rw [List.count_cons_of_ne he] at hctx hadmits hquiet ⊢
      have hq : quiet addr (rest.count .run) e = true := hquiet e List.mem_cons_self
      obtain ⟨t, hmove⟩ := move_next_of_ne_run he s
      obtain ⟨hcfg, -, hadmitted⟩ := move_sameLaunch hmove
      have hleft : LeftByMoves [e] s t := leftByMoves_of_move hmove he (quiet_not_deliver hq)
      have hrun : t.run = s.run := move_run_of_no_delay hmove he (quiet_not_deliver hq) fun n => by
        rw [hctx]
        exact blockContext_ne_delay c k addr _ n
      obtain ⟨u, hmoves, hdone, hleft'⟩ := ih (s := t) hk (hrun.trans hctx)
        (fun j hj => (State.admits_congr hadmitted hcfg _).trans (hadmits j hj))
        (fun e' he' => hquiet e' (List.mem_cons_of_mem _ he'))
      refine ⟨u, ?_, ?_, leftByMoves_append hleft hleft' hcfg⟩
      · rw [runMoves, hmove]
        exact hmoves
      · rw [hdone, bytesAt_of_quiet hleft hq]

/-- A whole CRC block command, from its issue. -/
theorem exec_runMoves_crcBlock {k : Block} (hk : k.isSpi = false) {addr len : Word} {s : State} {moves : List Event}
    (hready : k.Ready addr len s) (hlen : len ≠ 0#32) (hrange : addr.toNat + len.toNat ≤ 2 ^ s.cfg.addrW)
    (hadmits : ∀ j < len.toNat, s.admits (addr.toNat + j) = true)
    (hquiet : ∀ e ∈ moves, quiet addr.toNat len.toNat e = true) (hcount : moves.count .run + 1 = len.toNat) :
    ∃ t u, exec (blockCommand k addr len) s = .next t ∧ runMoves moves t = .next u ∧
      u.run = doneWith s (k.fold (s.bytesAt addr.toNat len.toNat)).result ∧ LeftByMoves moves s u := by
  have hexec := exec_blockCommand_admitted hready hlen hrange (hadmits 0 (by omega))
  rw [← hcount] at hquiet hadmits hexec ⊢
  rw [Block.tookByte_crc hk] at hexec
  obtain ⟨u, hmoves, hdone, hleft⟩ := runMoves_crcBlock (moves := moves) (k := k.afterByte addr.toNat s)
    (addr := addr.toNat + 1) (c := s)
    (s := { s with run := blockContext s (k.afterByte addr.toNat s) (addr.toNat + 1) (moves.count .run) })
    ((k.afterByte_isSpi _ s).trans hk) rfl
    (admits_succ hadmits)
    (fun e he => quiet_succ (hquiet e he))
  refine ⟨_, u, hexec, hmoves, ?_, leftByMoves_append (leftByMoves_nil _ rfl) hleft rfl⟩
  rw [hdone, Block.fold_bytesAt]

/-- Settles O33: the fold over any quiet moves, for each CRC. -/
theorem crcBlocksFoldUnderInterleaving : Obligations.CrcBlocksFoldUnderInterleaving := by
  intro s addr len moves hlen hrange hnarrow hadmits hquiet hcount
  exact ⟨fun acc => exec_runMoves_crcBlock (k := .crc7 acc) rfl ⟨decide_eq_true hnarrow, nofun⟩ hlen hrange hadmits
      hquiet hcount,
    fun acc => exec_runMoves_crcBlock (k := .crc16 acc) rfl ⟨decide_eq_true hnarrow, nofun⟩ hlen hrange hadmits
      hquiet hcount⟩

end Sys2Proof.Machine
end

section
/-!
PROOFS. The Timeout Service's commands (spec/40_timeout.md R115, R117, R118, R120): arming and expiry, and a delay's
start, hold and completion.
-/

namespace Sys2Proof

/-- The words of a command of format `T`, as the spec lays them out (spec/30_encoding.md R85). -/
theorem encode_startTimeout (n : BitVec 24) : encode (.startTimeout n) = ⟨placed n 8 ||| 0x10#32, 0#32, 0#32⟩ :=
  congrArg (Words.mk · 0#32 0#32) (BitVec.or_comm _ _)

theorem encode_delayUs (n : BitVec 24) : encode (.delayUs n) = ⟨placed n 8 ||| 0x12#32, 0#32, 0#32⟩ :=
  congrArg (Words.mk · 0#32 0#32) (BitVec.or_comm _ _)

theorem encode_delayMs (n : BitVec 24) : encode (.delayMs n) = ⟨placed n 8 ||| 0x13#32, 0#32, 0#32⟩ :=
  congrArg (Words.mk · 0#32 0#32) (BitVec.or_comm _ _)

end Sys2Proof

namespace Sys2Proof.Machine

open Sys2Proof.Claims

/-! ### `start_timeout` (R115) -/

theorem startTimeout_wf_iff {cfg : Config} {usecs : BitVec 24} :
    (Instr.startTimeout usecs).wf cfg = true ↔ 1 ≤ usecs.toNat ∧ usecs.toNat ≤ cfg.toMax := by
  have hzero : usecs = 0 ↔ usecs.toNat = 0 := (BitVec.toNat_inj (x := usecs) (y := 0)).symm
  simp only [Instr.wf, Bool.and_eq_true, decide_eq_true_eq, ne_eq, hzero, Nat.one_le_iff_ne_zero]

theorem exec_startTimeout_of_range {s : State} {usecs : BitVec 24} (hlow : 1 ≤ usecs.toNat)
    (hhigh : usecs.toNat ≤ s.cfg.toMax) :
    exec (.startTimeout usecs) s = .next ((s.armTimeout usecs.toNat).complete 0#32) :=
  inRange_of_wf (startTimeout_wf_iff.mpr ⟨hlow, hhigh⟩)

/-- Settles O13: the deadline is armed in range, and the decoder and the meaning make the same check. -/
theorem startTimeoutArmsTheDeadline : Obligations.StartTimeoutArmsTheDeadline := by
  refine fun s usecs => ⟨exec_startTimeout_of_range, fun hout => ⟨?_, ?_⟩, encode_startTimeout usecs⟩
  · obtain ⟨hop, hmatch⟩ := rowMatch (.startTimeout usecs)
    have hfield : imm24Field (encode (.startTimeout usecs)).w0 = usecs :=
      Instr.startTimeout.inj (command_encode (.startTimeout usecs))
    refine decode_of_timeoutOutOfRange hop hmatch rfl ?_
    rw [hfield]
    exact hout.imp_left fun hzero => BitVec.eq_of_toNat_eq hzero
  · refine if_neg fun hwf => ?_
    obtain ⟨hlow, hhigh⟩ := startTimeout_wf_iff.mp hwf
    omega

/-! ### Expiry (R114, R120) -/

/-- Microseconds after a deadline is armed: what is left of it, and whether it has expired. -/
theorem timeSteps_timeout {s : State} {n : Nat} (k : Nat) (hrem : s.timeout.toRem = n) (hpos : 1 ≤ n)
    (hexp : s.timeout.toExp = false) : (timeSteps k s).timeout.toExp = decide (n ≤ k) := by
  have hexpired : ∀ (k : Nat) (s : State), s.timeout.toExp = true → (timeSteps k s).timeout.toExp = true := by
    intro k
    induction k with
    | zero => exact fun s h => h
    | succ k ih => exact fun s h => ih s.timeStep (by simp [TimeoutUnit.tick, h])
  induction k generalizing s n with
  | zero => rw [timeSteps, hexp, decide_eq_false (by omega)]
  | succ k ih =>
    by_cases hone : n = 1
    · rw [timeSteps, hexpired k s.timeStep (by simp [TimeoutUnit.tick, hrem, hone]), decide_eq_true (by omega)]
    · have hnext := ih (s := s.timeStep) (n := n - 1) (by simp [TimeoutUnit.tick, hrem]) (by omega)
        (by simp [TimeoutUnit.tick, hexp, hrem, hone])
      rw [timeSteps, hnext]
      exact decide_eq_decide.mpr (by omega)

/-- Where `TO_TICKS` is the identity, a deadline is armed for its operand. -/
theorem Config.ticks_of_identity {cfg : Config} (h : cfg.toTicks = []) (usecs : Nat) : cfg.ticks usecs = usecs := by
  simp only [Config.ticks, h, List.lookup_nil, Option.getD_none]

/-- Settles O17: the second arming discards the first deadline, so only the microseconds after it count. -/
theorem rearmingResetsTheDeadline : Obligations.RearmingResetsTheDeadline := by
  intro s n j k hticks hlow hhigh _
  have hcfg : ∀ t : State, t.cfg = s.cfg → exec (.startTimeout n) t = .next ((t.armTimeout n.toNat).complete 0#32) :=
    fun t ht => exec_startTimeout_of_range hlow (by rwa [ht])
  have hcfg' : (timeSteps j ((s.armTimeout n.toNat).complete 0#32)).cfg = s.cfg := timeSteps_cfg j _
  refine ⟨_, _, _, hcfg s rfl, hcfg _ hcfg', exec_hasTimedOut _, ?_⟩
  rw [State.complete_run, wordOfBit_eq_ite, timeSteps_timeout (n := n.toNat) k ?_ hlow rfl]
  · simp only [decide_eq_true_eq]
  · exact Config.ticks_of_identity (hcfg' ▸ hticks) n.toNat

/-! ### Delays (R117, R118) -/

theorem delay_wf_of_wide {cfg : Config} (h : cfg.arch = .wide32) (n : BitVec 24) :
    (Instr.delayUs n).wf cfg = true ∧ (Instr.delayMs n).wf cfg = true := by
  simp [Instr.wf, h]

theorem onWide_of_wf {i : Instr} {s : State} {meaning : Result} (h : i.wf s.cfg = true) : onWide i s meaning = meaning :=
  if_pos h

/-- On `NARROW8` a delay has no meaning. -/
theorem onWide_of_narrow {i : Instr} {s : State} {meaning : Result} (h : i.wf s.cfg = false) :
    onWide i s meaning = .refused (.notOnArch (encode i).w0) :=
  if_neg (by simp [h])

/-- A delay's start in the words of the claims. -/
theorem startDelay_drawn (usecs : Nat) (s : State) : ∃ stack draws, List.Forall₂ DelayDrawn s.stack stack ∧
    startDelay usecs s = { s with
      run := if usecs = 0 then doneWith s 0#32 else busyWith s (.delay usecs)
      stack := stack
      inputs := { s.inputs with draws := draws } } :=
  ⟨_, _, drawDelays_delayDrawn s.stack s.inputs.draws, startDelay_eq usecs s⟩

/-- Settles O15: on `WIDE32` both start a delay, on `NARROW8` neither has a meaning. -/
theorem delaysStartInTheIssuingContext : Obligations.DelaysStartInTheIssuingContext := by
  intro s n
  have hzero : n.toNat = 0 ↔ n = 0#24 := BitVec.toNat_inj (x := n) (y := 0#24)
  have hzeroMs : 1000 * n.toNat = 0 ↔ n = 0#24 := by rw [← hzero]; omega
  refine ⟨fun hwide => ?_, fun hwide => ?_, fun hnarrow => ⟨?_, ?_⟩, encode_delayUs n, encode_delayMs n⟩
  · obtain ⟨stack, draws, hdrawn, hstart⟩ := startDelay_drawn n.toNat s
    simp only [hzero] at hstart
    exact ⟨stack, draws, hdrawn,
      (onWide_of_wf (delay_wf_of_wide hwide n).1).trans (congrArg Host.Outcome.next hstart)⟩
  · obtain ⟨stack, draws, hdrawn, hstart⟩ := startDelay_drawn (1000 * n.toNat) s
    simp only [hzeroMs] at hstart
    exact ⟨stack, draws, hdrawn,
      (onWide_of_wf (delay_wf_of_wide hwide n).2).trans (congrArg Host.Outcome.next hstart)⟩
  · exact onWide_of_narrow (by simp [Instr.wf, hnarrow])
  · exact onWide_of_narrow (by simp [Instr.wf, hnarrow])

theorem contextStep_of_delay {s : State} {left : Nat} (hactive : s.run.active = some (.delay left)) :
    contextStep s = .next (holdDelay left s) := by
  simp only [contextStep, hactive]

/-- One move of a context that is in a delay: time takes a microsecond, a step with time left holds. -/
theorem move_delay {s : State} {n : Nat} {e : Event} (hactive : s.run.active = some (.delay n))
    (hdeliver : ∀ src, e ≠ .deliver src) (hheld : e = .run → 0 < n) :
    ∃ t, move e s = .next t ∧ t.run = busyWith s (.delay (n - if e = .time then 1 else 0)) := by
  have hself : s.run = busyWith s (.delay n) := by rw [busyWith, ← hactive]
  cases e with
  | run => exact ⟨s, by rw [move, contextStep_of_delay hactive, holdDelay, if_neg (hheld rfl).ne'], hself⟩
  | time => exact ⟨s.timeStep, rfl, by simp [Context.tick, hactive, busyWith]⟩
  | deliver src => exact absurd rfl (hdeliver src)
  | _ => exact ⟨_, rfl, by simpa using hself⟩

/-- A context stays in its delay while it takes no step after its end, with the microseconds among the moves taken from
what is left. -/
theorem runMoves_delay {s : State} {n : Nat} {moves : List Event} (hactive : s.run.active = some (.delay n))
    (hdeliver : ∀ e ∈ moves, ∀ src, e ≠ .deliver src) (hheld : .run ∈ moves → moves.count .time < n) :
    ∃ t, runMoves moves s = .next t ∧ t.run = busyWith s (.delay (n - moves.count .time)) := by
  induction moves generalizing s n with
  | nil => exact ⟨s, rfl, by simp only [List.count_nil, Nat.sub_zero, busyWith, ← hactive]⟩
  | cons e rest ih =>
    have hcount : (e :: rest).count .time = rest.count .time + if e = .time then 1 else 0 := by
      simp [List.count_cons]
    obtain ⟨t, hmove, hrun⟩ := move_delay hactive (hdeliver e List.mem_cons_self) fun he =>
      Nat.zero_lt_of_lt (hheld (he ▸ List.mem_cons_self))
    obtain ⟨u, hmoves, hrun'⟩ := ih (s := t) (n := n - if e = .time then 1 else 0) (by rw [hrun]; rfl)
      (fun e' he' => hdeliver e' (List.mem_cons_of_mem e he'))
      (fun hin => by have := hheld (List.mem_cons_of_mem e hin); omega)
    refine ⟨u, by rw [runMoves, hmove]; exact hmoves, ?_⟩
    rw [hrun', busyWith, hrun, hcount, Nat.add_comm, Nat.sub_add_eq]
    rfl

/-- Settles O16: the context is in its delay after the moves, and completes at its first step with nothing left. -/
theorem delayLastsItsMicroseconds : Obligations.DelayLastsItsMicroseconds := by
  refine fun s n moves hactive hdeliver => ⟨fun hlt => runMoves_delay hactive hdeliver fun _ => hlt,
    fun hle hrun => ?_⟩
  obtain ⟨t, hmoves, hctx⟩ := runMoves_delay hactive hdeliver fun h => absurd h hrun
  rw [Nat.sub_eq_zero_of_le hle] at hctx
  have hdone : contextStep t = .next (t.complete 0#32) := contextStep_of_delay (by rw [hctx]; rfl)
  refine ⟨t, _, hmoves, hdone, ?_, rfl, rfl, rfl⟩
  rw [State.complete_run, hctx]
  rfl

end Sys2Proof.Machine
end

section
/-!
PROOFS. The bus lines and their sources, the SPI commands of one step, the parallel transport and reset
(spec/41_bus_lines.md R138, spec/42_edge_irq.md R154 to R160, spec/44_spi.md R194 to R206, spec/45_parallel.md R221,
R222, spec/70_reset_and_hazards.md R260).
-/

namespace Sys2Proof.Machine

open Sys2Proof.Claims

/-! ### Reading a line back (R138) -/

/-- Of the agents, the running context alone writes `OUT`. -/
theorem move_out {e : Event} {s t : State} (hrun : e ≠ .run) (h : move e s = .next t) : t.out = s.out := by
  cases e with
  | run => exact absurd rfl hrun
  | _ =>
    obtain rfl := Host.Outcome.next.inj h
    simp

theorem runMoves_out {moves : List Event} (s : State) (hrun : .run ∉ moves) :
    ∃ t, runMoves moves s = .next t ∧ t.out = s.out := by
  induction moves generalizing s with
  | nil => exact ⟨s, rfl, rfl⟩
  | cons e rest ih =>
    obtain ⟨he, hrest⟩ := List.ne_and_not_mem_of_not_mem_cons hrun
    obtain ⟨t, hmove⟩ := move_next_of_ne_run he.symm s
    obtain ⟨u, hmoves, hout⟩ := ih t hrest
    exact ⟨u, by rw [runMoves, hmove]; exact hmoves, hout.trans (move_out he.symm hmove)⟩

/-- Settles O21: the written bit of `OUT` stays, and the snapshot's bit is the wire. -/
theorem readAfterWriteSeesTheLine : Obligations.ReadAfterWriteSeesTheLine := by
  intro s l v moves hrun
  obtain ⟨u, hmoves, hout⟩ := runMoves_out ((s.driveLine l v).complete 0#32) hrun
  refine ⟨_, u, u.snapshot, exec_lineCommand l v s, hmoves, exec_iecBusRead u, ?_⟩
  rw [State.snapshot_getLsbD_snapshotBit, State.wire, hout]
  simp

/-! ### Arming and disarming (R154, R155, R160) -/

theorem exec_setAtnIrq_of_wired {s : State} (h : s.cfg.wiredAtn = true) (v : Bool) :
    exec (.setAtnIrq v) s = .next ((s.armAtn v).complete 0#32) :=
  if_pos h

theorem exec_setClockIrq_of_wired {s : State} (h : s.cfg.wiredClock = true) (v : Bool) :
    exec (.setClockIrq v) s = .next ((s.armClock v).complete 0#32) :=
  if_pos h

theorem exec_setAtnIrq_of_unwired {s : State} (h : s.cfg.wiredAtn = false) (v : Bool) :
    exec (.setAtnIrq v) s = .refused (.configUnwiredIrq s.run.owner s.run.pc) :=
  if_neg (Bool.eq_false_iff.mp h)

theorem exec_setClockIrq_of_unwired {s : State} (h : s.cfg.wiredClock = false) (v : Bool) :
    exec (.setClockIrq v) s = .refused (.configUnwiredIrq s.run.owner s.run.pc) :=
  if_neg (Bool.eq_false_iff.mp h)

/-- A disarm keeps no pending bit that was clear. -/
theorem keptPending_of_clear {pend : Bool} (h : pend = false) (draws : Nat) : keptPending pend draws = false := by
  rw [keptPending, h, Bool.false_and]

/-- Settles O24: on a wired line both commands write its enable, and a disarm its pending bit. -/
theorem armingAndDisarmingSources : Obligations.ArmingAndDisarmingSources := by
  refine ⟨fun s hwired => ⟨exec_setAtnIrq_of_wired hwired true, _, _, fun h => keptPending_of_clear h s.inputs.draws,
      exec_setAtnIrq_of_wired hwired false⟩,
    fun s hwired => ⟨exec_setClockIrq_of_wired hwired true, _, _, fun h => keptPending_of_clear h s.inputs.draws,
      exec_setClockIrq_of_wired hwired false⟩,
    fun s v => ⟨fun h => exec_setAtnIrq_of_unwired h v, fun h => exec_setClockIrq_of_unwired h v⟩, by decide⟩

/-- The snapshot depends on `OUT` and the environment alone. -/
theorem State.snapshot_congr {s t : State} (hout : t.out = s.out) (henv : t.env = s.env) : t.snapshot = s.snapshot := by
  simp only [State.snapshot, State.wire_congr hout henv]

/-- What a read returns is what it returned where `OUT` and the environment are as they were. -/
theorem read_of_sameWires {s u : State} (hout : u.out = s.out) (henv : u.env = s.env) :
    u.out = s.out ∧ (∀ l, u.wire l = s.wire l) ∧ exec .iecBusRead s = .next { s with run := doneWith s s.snapshot } ∧
      exec .iecBusRead u = .next { u with run := doneWith u s.snapshot } :=
  ⟨hout, State.wire_congr hout henv, exec_iecBusRead s, by rw [← State.snapshot_congr hout henv]; exact exec_iecBusRead u⟩

/-- Settles O25: arming and disarming write neither `OUT` nor the environment. -/
theorem armingLeavesTheRead : Obligations.ArmingLeavesTheRead := by
  refine fun s => ⟨fun hwired => ?_, fun hwired => ?_⟩
  · refine ⟨_, _, s.snapshot, exec_setAtnIrq_of_wired hwired true, exec_setAtnIrq_of_wired (by simpa using hwired) false,
      read_of_sameWires ?_ ?_⟩ <;> simp
  · refine ⟨_, _, s.snapshot, exec_setClockIrq_of_wired hwired true,
      exec_setClockIrq_of_wired (by simpa using hwired) false, read_of_sameWires ?_ ?_⟩ <;> simp

/-! ### Selection (R194, R200, R206) -/

/-- After a selection the chip-select lines are those of the selector. -/
theorem selectDevice_cs (s : State) (dev : Selector) (r : Word) :
    ((s.selectDevice dev).complete r).cs0 = cs0Of dev ∧ ((s.selectDevice dev).complete r).cs1 = cs1Of dev :=
  ⟨rfl, rfl⟩

/-- Settles O38: each selector names its lines, and `ALL` alone names both. -/
theorem selectionIsExclusive : Obligations.SelectionIsExclusive := by
  refine ⟨fun s hon hidle => ?_, fun s => ?_⟩
  · have hselect : ∀ dev, ∃ t, exec (.spiSelectDevice dev) s = .next t ∧ t.cs0 = cs0Of dev ∧ t.cs1 = cs1Of dev :=
      fun dev => ⟨_, exec_spiSelectDevice_of_idle hon hidle dev, selectDevice_cs s dev 0#32⟩
    exact ⟨hselect .card0, hselect .card1, hselect .none, hselect .all⟩
  · rw [State.cs0, State.cs1]
    cases s.spi.spiSel <;> decide

/-- Settles O39: a selection appends the new pair of lines exactly when a line changes. -/
theorem selectionChangesAreRecorded : Obligations.SelectionChangesAreRecorded := by
  refine fun s hidle => ⟨fun dev hon => ⟨_, exec_spiSelectDevice_of_idle hon hidle dev, rfl⟩,
    fun p => ⟨_, exec_spiInit_of_idle hidle p, rfl, rfl, ?_⟩⟩
  simp only [State.complete_spiOut, State.selectDevice_spiOut]
  exact if_congr (and_congr eq_comm eq_comm) rfl rfl

/-! ### Byte transfers (R201, R202) -/

theorem exec_spiTxByte_of_idle {s : State} (hon : s.spi.spiOn = true) (hidle : s.spi.spiBusy = false) (data : Byte) :
    exec (.spiTxByte data) s = .next ((s.exchanged data).complete (zext32 s.received)) :=
  spiReady_of_idle hon hidle

theorem exec_spiRxByte_of_idle {s : State} (hon : s.spi.spiOn = true) (hidle : s.spi.spiBusy = false) :
    exec .spiRxByte s = .next ((s.exchanged fillByte).complete (zext32 s.received)) :=
  spiReady_of_idle hon hidle

/-- Settles O40: each is one exchange, completed with the byte received. -/
theorem spiByteTransfersExchangeOneByte : Obligations.SpiByteTransfersExchangeOneByte := fun _ hon hidle =>
  ⟨exec_spiTxByte_of_idle hon hidle, exec_spiRxByte_of_idle hon hidle⟩

/-- Settles O41: an exchange receives the first answer that is ready. -/
theorem spiAnswersArriveInOrder : Obligations.SpiAnswersArriveInOrder := by
  intro s data r rest hon hidle hin
  have hreceived : s.received = r := by simp only [State.received, hin]
  have hafter : s.inputs.afterByte.spiIn = rest := by simp only [Inputs.afterByte, hin]
  exact ⟨⟨_, exec_spiTxByte_of_idle hon hidle data, congrArg zext32 hreceived, hafter⟩,
    ⟨_, exec_spiRxByte_of_idle hon hidle, congrArg zext32 hreceived, hafter⟩⟩

/-! ### The serial clock (R197) -/

/-- Settles O47: the slow divisor is the larger of two positive ones. -/
theorem slowPresetIsSlower : Obligations.SlowPresetIsSlower := by
  intro cfg hwf href
  obtain ⟨-, -, -, hslower, hfast, -⟩ := Config.wf_iff.mp hwf
  have href' : (0 : Rat) < cfg.spiRefClk := Nat.cast_pos.mpr href
  have hfast' : (0 : Rat) < cfg.spiDivFast := Nat.cast_pos.mpr hfast
  have hslow' : (0 : Rat) < cfg.spiDivSlow := Nat.cast_pos.mpr (hfast.trans hslower)
  exact ⟨div_lt_div_of_pos_left href' hfast' (Nat.cast_lt.mpr hslower), div_pos href' hslow',
    div_mul_cancel₀ _ hslow'.ne', div_mul_cancel₀ _ hfast'.ne'⟩

/-! ### The parallel transport (R221, R222) -/

/-- Every line of the port is released after `parallel_init`. -/
theorem initParallel_parDrive (s : State) (line : ParLine) : (s.initParallel.complete 0#32).parDrive line = true := by
  have hdata : ∀ k : Fin 8, (0xFF#8).getLsbD k = true := by decide
  cases line with
  | data k => exact hdata k
  | hsOut | hsIn => rfl

/-- A line of the port is low where the block pulls it. -/
theorem parWire_eq_ite (s : State) (line : ParLine) (others : Bool) :
    s.parWire line others = if s.parDrive line = true then others else false := by
  cases h : s.parDrive line with
  | true => exact State.parWire_released s h others
  | false => exact State.parWire_pulled s h others

/-- Settles O49: the transport is configured where there is one, with every line released. -/
theorem parallelInitConfiguresTheTransport : Obligations.ParallelInitConfiguresTheTransport := by
  refine ⟨by decide, fun s h => if_neg (Bool.eq_false_iff.mp h), fun s h => if_pos h, fun s t h line others => ?_,
    fun s others => ⟨fun k => parWire_eq_ite s (.data k) others, parWire_eq_ite s .hsOut others,
      s.parWire_released rfl _⟩⟩
  obtain ⟨-, h⟩ := whenParallel_next.mp h
  obtain rfl := Host.Outcome.next.inj h
  exact State.parWire_released _ (initParallel_parDrive s line) others

/-! ### Reset (R260, R261) -/

/-- Settles O58: the fields of a launch, and a launch for every unspecified value. -/
theorem resetLeavesTheTable : Obligations.ResetLeavesTheTable := by
  refine ⟨fun l => ⟨rfl, rfl, rfl, rfl, rfl, rfl, rfl, rfl, rfl, rfl, rfl, rfl, rfl, rfl, rfl⟩,
    fun cfg toExp hsOut now p data hnow => ?_, Launch.default, rfl⟩
  exact ⟨{ Launch.default with
      cfg := cfg, toExp := toExp, now := now, spiSpeed := p, parHsOut := hsOut, parDataOut := data },
    rfl, rfl, Nat.mod_eq_of_lt hnow, rfl, rfl, rfl⟩

end Sys2Proof.Machine
end

section
/-!
PROOFS. The check of the caller's programs before a step (spec/00_scope.md R12): which line a refusal names, and that a
line with an unprovided command leads to one.
-/

namespace Sys2Proof.Machine

open Sys2Proof.Claims

/-! ### A line -/

/-- The commands a variant does not provide for. -/
theorem provided_eq_false_iff {cfg : Config} {i : Instr} :
    i.provided cfg = false ↔ armsUnwired cfg i ∨ i = .parallelInit ∧ cfg.hasParallel = false := by
  cases i <;> simp [Instr.provided, armsUnwired]

/-- The refusal for a command a variant does not provide for. -/
def unprovidedRefusal (owner : Owner) (n : Nat) (i : Instr) : Refusal :=
  if i = .parallelInit then .configNoParallel owner n else .configUnwiredIrq owner n

/-- A line with a word that decodes is refused exactly for an unprovided command. -/
theorem lineRefusal_of_decode_ok {cfg : Config} {w : Words} {i : Instr} {line : ProgLine}
    (hline : line = .cmd w ∨ line = .cmdRes w) (hdecode : decode cfg w = .ok i) (owner : Owner) (n : Nat) :
    lineRefusal cfg owner n line = if i.provided cfg = true then none else some (unprovidedRefusal owner n i) := by
  rcases hline with rfl | rfl <;> simp only [lineRefusal, hdecode, unprovidedRefusal, apply_ite some]

/-- A line that is refused holds a word that decodes to an unprovided command. -/
theorem lineRefusal_eq_some {cfg : Config} {owner : Owner} {n : Nat} {line : ProgLine} {r : Refusal}
    (h : lineRefusal cfg owner n line = some r) :
    ∃ w i, (line = .cmd w ∨ line = .cmdRes w) ∧ decode cfg w = .ok i ∧ i.provided cfg = false ∧
      r = unprovidedRefusal owner n i := by
  have hword : ∃ w, line = .cmd w ∨ line = .cmdRes w := by
    cases line with
    | cmd w => exact ⟨w, .inl rfl⟩
    | cmdRes w => exact ⟨w, .inr rfl⟩
    | _ => cases h
  obtain ⟨w, hline⟩ := hword
  cases hdecode : decode cfg w with
  | error e => rcases hline with rfl | rfl <;> simp [lineRefusal, hdecode] at h
  | ok i =>
    rw [lineRefusal_of_decode_ok hline hdecode] at h
    cases hprovided : i.provided cfg with
    | true => simp [hprovided] at h
    | false => exact ⟨w, i, hline, hdecode, hprovided, by simpa [hprovided] using h.symm⟩

/-! ### A program -/

/-- A program that is refused holds the line its refusal names. -/
theorem programRefusal_eq_some {cfg : Config} {owner : Owner} {n : Nat} {p : List ProgLine} {r : Refusal}
    (h : programRefusal cfg owner n p = some r) :
    ∃ j line, p[j]? = some line ∧ lineRefusal cfg owner (n + j) line = some r := by
  induction p generalizing n with
  | nil => cases h
  | cons line rest ih =>
    rw [programRefusal] at h
    cases hline : lineRefusal cfg owner n line with
    | some r' =>
      rw [hline] at h
      exact ⟨0, line, rfl, hline.trans h⟩
    | none =>
      rw [hline] at h
      obtain ⟨j, line', hget, hrefused⟩ := ih h
      exact ⟨j + 1, line', hget, by rwa [Nat.add_assoc, Nat.add_comm 1 j] at hrefused⟩

/-- No line of a program that is not refused is refused, wherever it stands. -/
theorem lineRefusal_of_programRefusal_eq_none {cfg : Config} {owner : Owner} {n : Nat} {p : List ProgLine}
    (h : programRefusal cfg owner n p = none) {line : ProgLine} (hmem : line ∈ p) :
    ∃ j, lineRefusal cfg owner j line = none := by
  induction p generalizing n with
  | nil => cases hmem
  | cons first rest ih =>
    rw [programRefusal] at h
    cases hfirst : lineRefusal cfg owner n first with
    | some r => rw [hfirst] at h; cases h
    | none =>
      rw [hfirst] at h
      rcases List.mem_cons.mp hmem with rfl | hrest
      · exact ⟨n, hfirst⟩
      · exact ih h hrest

/-! ### The launch -/

/-- A launch under a well-formed configuration is refused for one of its programs. -/
theorem launchRefusal_eq_some {cfg : Config} {progs : Programs} {r : Refusal} (hwf : cfg.wf = true)
    (h : launchRefusal cfg progs = some r) : ∃ owner, programRefusal cfg owner 0 (programOf progs owner) = some r := by
  rw [launchRefusal, if_neg (by simp [hwf])] at h
  simp only [Option.or_eq_some_iff] at h
  rcases h with h | ⟨-, h | ⟨-, h | ⟨-, h⟩⟩⟩
  · exact ⟨.main, h⟩
  · exact ⟨.handler .edgeAtn, h⟩
  · exact ⟨.handler .edgeClock, h⟩
  · exact ⟨.handler .parHs, h⟩

/-- A launch that is not refused is refused for none of its programs. -/
theorem programRefusal_of_launchRefusal {cfg : Config} {progs : Programs} (h : launchRefusal cfg progs = none)
    (owner : Owner) : programRefusal cfg owner 0 (programOf progs owner) = none := by
  rw [launchRefusal, if_neg (by simp [wf_of_launchRefusal h])] at h
  simp only [Option.or_eq_none_iff] at h
  obtain ⟨hmain, hatn, hclock, hpar⟩ := h
  rcases owner with - | ⟨- | - | -⟩
  · exact hmain
  · exact hatn
  · exact hclock
  · exact hpar

/-- The lines of all programs are those of each owner's. -/
theorem mem_allLines {progs : Programs} {line : ProgLine} (h : line ∈ allLines progs) :
    ∃ owner, line ∈ programOf progs owner := by
  simp only [allLines, List.mem_append] at h
  rcases h with ((h | h) | h) | h
  · exact ⟨.main, h⟩
  · exact ⟨.handler .edgeAtn, h⟩
  · exact ⟨.handler .edgeClock, h⟩
  · exact ⟨.handler .parHs, h⟩

/-- Settles O10: a line with an unprovided command refuses the launch, and the refusal names the first such line. -/
theorem unprovidedProgramsHaveNoStep : Obligations.UnprovidedProgramsHaveNoStep := by
  intro s w i hwf hdecode hmem hcase
  have hprovided : i.provided s.cfg = false := provided_eq_false_iff.mpr hcase
  obtain ⟨line, hline, hall⟩ : ∃ line, (line = .cmd w ∨ line = .cmdRes w) ∧ line ∈ allLines s.progs :=
    hmem.elim (fun h => ⟨_, .inl rfl, h⟩) (fun h => ⟨_, .inr rfl, h⟩)
  cases hlaunch : launchRefusal s.cfg s.progs with
  | none =>
    obtain ⟨owner, hin⟩ := mem_allLines hall
    obtain ⟨j, hnone⟩ := lineRefusal_of_programRefusal_eq_none (programRefusal_of_launchRefusal hlaunch owner) hin
    simp [lineRefusal_of_decode_ok hline hdecode, hprovided] at hnone
  | some r =>
    obtain ⟨owner, hprogram⟩ := launchRefusal_eq_some hwf hlaunch
    obtain ⟨n, line', hget, hrefused⟩ := programRefusal_eq_some hprogram
    obtain ⟨w', i', hline', hdecode', hprovided', rfl⟩ := lineRefusal_eq_some hrefused
    rw [Nat.zero_add] at hlaunch
    have hnamed : (programOf s.progs owner)[n]? = some (.cmd w') ∨ (programOf s.progs owner)[n]? = some (.cmdRes w') := by
      rcases hline' with rfl | rfl
      exacts [.inl hget, .inr hget]
    refine ⟨owner, n, w', i', hnamed, hdecode', ?_⟩
    rw [step_of_launchRefusal hlaunch]
    rcases provided_eq_false_iff.mp hprovided' with harms | ⟨rfl, hpar⟩
    · have hne : i' ≠ .parallelInit := by
        rintro rfl
        simp [armsUnwired] at harms
      exact .inl ⟨harms, by rw [unprovidedRefusal, if_neg hne]⟩
    · exact .inr ⟨rfl, hpar, rfl⟩

end Sys2Proof.Machine
end

section
/-!
PROOFS. The CRC functions as division of polynomials over GF(2) (spec/43_crc.md R172): registers as polynomials, one bit
of each algorithm modulo its generator, and the fold over a message.
-/

namespace Sys2Proof.Machine

open Polynomial Sys2Proof.Claims

/-! ### Bits as polynomials -/

/-- A bit as a constant polynomial. -/
noncomputable def bitPoly (b : Bool) : (ZMod 2)[X] := C (if b then 1 else 0)

theorem bitPoly_false : bitPoly false = 0 := by simp [bitPoly]

theorem bitPoly_true : bitPoly true = 1 := by simp [bitPoly]

/-- Over GF(2) a sum of bits is their exclusive or. -/
theorem bitPoly_xor (a b : Bool) : bitPoly (a ^^ b) = bitPoly a + bitPoly b := by
  cases a <;> cases b <;> simp [bitPoly_false, bitPoly_true, CharTwo.add_self_eq_zero]

theorem foldl_bits (p : (ZMod 2)[X]) (bits : List Bool) :
    bits.foldl (fun p b => p * X + C (if b then 1 else 0)) p = p * X ^ bits.length + bitsPoly bits := by
  induction bits generalizing p with
  | nil => simp [bitsPoly]
  | cons b bits ih =>
    have hrest := ih (0 * X + C (if b then 1 else 0))
    rw [bitsPoly, List.foldl_cons, List.foldl_cons, ih, hrest, List.length_cons, pow_succ']
    ring

theorem bitsPoly_cons (b : Bool) (bits : List Bool) :
    bitsPoly (b :: bits) = bitPoly b * X ^ bits.length + bitsPoly bits := by
  rw [bitsPoly, List.foldl_cons, foldl_bits, zero_mul, zero_add, bitPoly]

theorem bitsPoly_append (bits bits' : List Bool) :
    bitsPoly (bits ++ bits') = bitsPoly bits * X ^ bits'.length + bitsPoly bits' := by
  rw [bitsPoly, List.foldl_append, foldl_bits, ← bitsPoly]

/-! ### Registers as polynomials -/

/-- The polynomial of a register: bit `i` is the coefficient of `X ^ i`. -/
noncomputable def regPoly {n : Nat} (v : BitVec n) : (ZMod 2)[X] := ∑ i ∈ Finset.range n, bitPoly (v.getLsbD i) * X ^ i

theorem bitsPoly_msbFirst {n : Nat} (v : BitVec n) : bitsPoly (msbFirst v) = regPoly v := by
  have hbits : ∀ (n : Nat) (f : Nat → Bool),
      bitsPoly ((List.range n).reverse.map f) = ∑ i ∈ Finset.range n, bitPoly (f i) * X ^ i := by
    intro n f
    induction n with
    | zero => rfl
    | succ n ih =>
      rw [List.range_succ, List.reverse_append, List.reverse_singleton, List.singleton_append, List.map_cons,
        bitsPoly_cons, ih, List.length_map, List.length_reverse, List.length_range, Finset.sum_range_succ, add_comm]
  exact hbits n v.getLsbD

theorem regPoly_xor {n : Nat} (a b : BitVec n) : regPoly (a ^^^ b) = regPoly a + regPoly b := by
  simp only [regPoly, BitVec.getLsbD_xor, bitPoly_xor, add_mul, Finset.sum_add_distrib]

/-- A register one place up, without the bit that leaves it. -/
theorem regPoly_shiftLeft_one {n : Nat} (v : BitVec (n + 1)) :
    regPoly (v <<< 1) = regPoly v * X + bitPoly (v.getLsbD n) * X ^ (n + 1) := by
  have hlow : ∀ i ∈ Finset.range n, bitPoly ((v <<< 1).getLsbD (i + 1)) * X ^ (i + 1) =
      bitPoly (v.getLsbD i) * X ^ i * X := by
    intro i hi
    have hlt : i + 1 < n + 1 := Nat.succ_lt_succ (Finset.mem_range.mp hi)
    rw [BitVec.getLsbD_shiftLeft, pow_succ, mul_assoc]
    simp [hlt]
  have htop : bitPoly (v.getLsbD n) * X ^ n * X + bitPoly (v.getLsbD n) * X ^ (n + 1) = 0 := by
    rw [pow_succ, mul_assoc, CharTwo.add_self_eq_zero]
  have hzero : (v <<< 1).getLsbD 0 = false := by simp
  rw [regPoly, Finset.sum_range_succ', Finset.sum_congr rfl hlow, hzero, bitPoly_false, zero_mul, add_zero, regPoly,
    Finset.sum_range_succ, add_mul, Finset.sum_mul, add_assoc, htop, add_zero]

theorem degree_regPoly_lt {n : Nat} (v : BitVec n) : (regPoly v).degree < n := by
  refine (degree_lt_iff_coeff_zero _ _).mpr fun m hm => ?_
  rw [regPoly, finsetSum_coeff]
  refine Finset.sum_eq_zero fun i hi => ?_
  have hne : m ≠ i := by have := Finset.mem_range.mp hi; omega
  rw [bitPoly, coeff_C_mul_X_pow, if_neg hne]

/-- The remainder of a polynomial that a register is congruent to. -/
theorem regPoly_eq_modByMonic {n : Nat} {v : BitVec n} {g p : (ZMod 2)[X]} (hmonic : g.Monic) (hdeg : g.degree = n)
    (h : g ∣ regPoly v - p) : regPoly v = p %ₘ g := by
  have hself : regPoly v %ₘ g = regPoly v := (modByMonic_eq_self_iff hmonic).mpr (hdeg ▸ degree_regPoly_lt v)
  rw [← hself]
  exact modByMonic_eq_of_dvd_sub hmonic h

/-! ### CRC-7, bit by bit (R170) -/

/-- The generator of CRC-7. -/
noncomputable def generator7 : (ZMod 2)[X] := X ^ 7 + X ^ 3 + 1

theorem generator7_monic : generator7.Monic := by
  unfold generator7
  monicity!

theorem generator7_degree : generator7.degree = (7 : Nat) := by
  unfold generator7
  compute_degree!

theorem regPoly_polynomial7 : regPoly 0x09#7 = X ^ 3 + 1 := by
  simp [regPoly, Finset.sum_range_succ, bitPoly, add_comm]

/-- One data bit shifts the register up and brings the bit in at `X ^ 7`, less a multiple of the generator. -/
theorem regPoly_crc7Bit (c : BitVec 7) (b : Bool) :
    regPoly (crc7Bit c b) = regPoly c * X + bitPoly b * X ^ 7 + bitPoly (c.getLsbD 6 ^^ b) * generator7 := by
  have hshift : regPoly (c <<< 1) = regPoly c * X + bitPoly (c.getLsbD 6) * X ^ 7 := regPoly_shiftLeft_one c
  have htop : c.getLsbD 6 = (b ^^ (c.getLsbD 6 ^^ b)) := by cases c.getLsbD 6 <;> cases b <;> rfl
  rw [htop, bitPoly_xor] at hshift
  unfold crc7Bit
  cases hnew : c.getLsbD 6 ^^ b with
  | false => rw [if_neg Bool.false_ne_true, hshift, hnew, bitPoly_false]; ring
  | true => rw [if_pos rfl, regPoly_xor, hshift, hnew, regPoly_polynomial7, bitPoly_true, generator7]; ring

/-- The bits of a message, brought in one after the other. -/
theorem generator7_dvd_foldl_crc7Bit (c : BitVec 7) (bits : List Bool) :
    generator7 ∣ regPoly (bits.foldl crc7Bit c) - (regPoly c * X ^ bits.length + bitsPoly bits * X ^ 7) := by
  induction bits generalizing c with
  | nil => simp [bitsPoly]
  | cons b bits ih =>
    have hbit : generator7 ∣ regPoly (crc7Bit c b) - (regPoly c * X + bitPoly b * X ^ 7) := by
      rw [regPoly_crc7Bit, add_sub_cancel_left]
      exact dvd_mul_left _ _
    have hsum := dvd_add (ih (crc7Bit c b)) (hbit.mul_left (X ^ bits.length))
    rw [List.foldl_cons, List.length_cons, bitsPoly_cons]
    convert hsum using 1
    ring

theorem messageBits_cons (d : Byte) (bytes : List Byte) : messageBits (d :: bytes) = msbFirst d ++ messageBits bytes :=
  rfl

theorem crc7Fold_cons (acc d : Byte) (bytes : List Byte) :
    crc7Fold acc (d :: bytes) = crc7Fold (crc7Upd acc d) bytes :=
  rfl

theorem crc7Fold_append_singleton (acc d : Byte) (bytes : List Byte) :
    crc7Fold acc (bytes ++ [d]) = crc7Upd (crc7Fold acc bytes) d :=
  List.foldl_append

/-- The register of the fold is that of the message's bits. -/
theorem crc7Fold_setWidth (acc : Byte) (bytes : List Byte) :
    (crc7Fold acc bytes).setWidth 7 = (messageBits bytes).foldl crc7Bit (acc.setWidth 7) := by
  induction bytes generalizing acc with
  | nil => rfl
  | cons d bytes ih =>
    have hbyte : (crc7Upd acc d).setWidth 7 = (msbFirst d).foldl crc7Bit (acc.setWidth 7) := by
      rw [crc7Upd, BitVec.setWidth_setWidth_of_le _ (by decide), BitVec.setWidth_eq]
      rfl
    rw [crc7Fold_cons, ih, hbyte, messageBits_cons, List.foldl_append]

theorem messageBits_length (bytes : List Byte) : (messageBits bytes).length = 8 * bytes.length := by
  simp [messageBits, msbFirst, List.length_flatMap, Nat.mul_comm]

/-! ### CRC-16, byte by byte (R171) -/

/-- The generator of CRC-16. -/
noncomputable def generator16 : (ZMod 2)[X] := X ^ 16 + X ^ 12 + X ^ 5 + 1

theorem crc16Fold_cons (acc : BitVec 16) (d : Byte) (bytes : List Byte) :
    crc16Fold acc (d :: bytes) = crc16Fold (crc16Upd acc d) bytes :=
  rfl

theorem crc16Fold_append (acc : BitVec 16) (bytes bytes' : List Byte) :
    crc16Fold acc (bytes ++ bytes') = crc16Fold (crc16Fold acc bytes) bytes' :=
  List.foldl_append

theorem generator16_monic : generator16.Monic := by
  unfold generator16
  monicity!

theorem generator16_degree : generator16.degree = (16 : Nat) := by
  unfold generator16
  compute_degree!

theorem regPoly_polynomial16 : regPoly 0x1021#16 = X ^ 12 + X ^ 5 + 1 := by
  simp [regPoly, Finset.sum_range_succ, bitPoly]
  ring

/-- One shift multiplies the register by `X`, less a multiple of the generator. -/
theorem regPoly_crc16Shift (c : BitVec 16) :
    regPoly (crc16Shift c) = regPoly c * X + bitPoly (c.getLsbD 15) * generator16 := by
  have hshift : regPoly (c <<< 1) = regPoly c * X + bitPoly (c.getLsbD 15) * X ^ 16 := regPoly_shiftLeft_one c
  unfold crc16Shift
  cases htop : c.getLsbD 15 with
  | false => rw [if_neg Bool.false_ne_true, hshift, htop, bitPoly_false]; ring
  | true => rw [if_pos rfl, regPoly_xor, hshift, htop, regPoly_polynomial16, bitPoly_true, generator16]; ring

theorem generator16_dvd_shifts (c : BitVec 16) (k : Nat) :
    generator16 ∣ regPoly (Nat.repeat crc16Shift k c) - regPoly c * X ^ k := by
  induction k with
  | zero => simp [Nat.repeat]
  | succ k ih =>
    have hsum := dvd_add (ih.mul_right X) (dvd_mul_left generator16
      (bitPoly ((Nat.repeat crc16Shift k c).getLsbD 15)))
    rw [Nat.repeat, regPoly_crc16Shift]
    convert hsum using 1
    ring

/-- A data byte stands in the upper half of the register. -/
theorem regPoly_upperByte (d : Byte) : regPoly (d.setWidth 16 <<< 8) = regPoly d * X ^ 8 := by
  have hlow : ∀ i ∈ Finset.range 8, bitPoly ((d.setWidth 16 <<< 8).getLsbD i) * (X : (ZMod 2)[X]) ^ i = 0 := by
    intro i hi
    simp [Finset.mem_range.mp hi, bitPoly_false]
  have hhigh : ∀ i ∈ Finset.range 8, bitPoly ((d.setWidth 16 <<< 8).getLsbD (8 + i)) * (X : (ZMod 2)[X]) ^ (8 + i) =
      bitPoly (d.getLsbD i) * X ^ i * X ^ 8 := by
    intro i hi
    have hlt : i < 8 := Finset.mem_range.mp hi
    have hbit : (d.setWidth 16 <<< 8).getLsbD (8 + i) = d.getLsbD i := by
      simp [show 8 + i < 16 by omega]
    rw [hbit, mul_assoc, ← pow_add, add_comm 8 i]
  rw [regPoly, Finset.sum_range_add (n := 8) (m := 8), Finset.sum_eq_zero hlow, zero_add, Finset.sum_congr rfl hhigh,
    ← Finset.sum_mul, regPoly]

/-- A byte shifts the register by eight places and comes in at `X ^ 16`. -/
theorem generator16_dvd_crc16Upd (acc : BitVec 16) (d : Byte) :
    generator16 ∣ regPoly (crc16Upd acc d) - (regPoly acc * X ^ 8 + regPoly d * X ^ 16) := by
  have hshifts := generator16_dvd_shifts (acc ^^^ (d.setWidth 16 <<< 8)) 8
  rw [regPoly_xor, regPoly_upperByte] at hshifts
  rw [crc16Upd]
  convert hshifts using 2
  ring

/-- The bytes of a message, brought in one after the other. -/
theorem generator16_dvd_crc16Fold (acc : BitVec 16) (bytes : List Byte) :
    generator16 ∣ regPoly (crc16Fold acc bytes) -
      (regPoly acc * X ^ (8 * bytes.length) + bitsPoly (messageBits bytes) * X ^ 16) := by
  induction bytes generalizing acc with
  | nil => simp [crc16Fold, messageBits, bitsPoly]
  | cons d bytes ih =>
    have hsum := dvd_add (ih (crc16Upd acc d)) ((generator16_dvd_crc16Upd acc d).mul_left (X ^ (8 * bytes.length)))
    have hbits : bitsPoly (messageBits (d :: bytes)) =
        regPoly d * X ^ (8 * bytes.length) + bitsPoly (messageBits bytes) := by
      rw [messageBits_cons, bitsPoly_append, bitsPoly_msbFirst, messageBits_length]
    rw [hbits, List.length_cons, crc16Fold_cons]
    convert hsum using 1
    ring

/-- Settles O28: each fold is congruent to the polynomial modulo its generator, and its register has a lower degree. -/
theorem crcIsPolynomialDivision : Obligations.CrcIsPolynomialDivision := by
  refine ⟨fun acc bytes => ?_, fun acc bytes => ?_⟩
  · rw [bitsPoly_msbFirst, bitsPoly_msbFirst]
    exact regPoly_eq_modByMonic generator16_monic generator16_degree (generator16_dvd_crc16Fold acc bytes)
  · rw [bitsPoly_msbFirst, bitsPoly_msbFirst, crc7Fold_setWidth, ← messageBits_length]
    exact regPoly_eq_modByMonic generator7_monic generator7_degree (generator7_dvd_foldl_crc7Bit _ _)

/-! ### Residues (R180) -/

/-- A data bit equal to the register's top bit only shifts the register. -/
theorem crc7Bit_top (c : BitVec 7) : crc7Bit c (c.getLsbD 6) = c <<< 1 := by
  simp [crc7Bit]

/-- The register's own bits, brought in from the top, shift it out. -/
theorem foldl_crc7Bit_own (c : BitVec 7) {k : Nat} (hk : k ≤ 7) :
    ((List.range k).map fun i => c.getLsbD (6 - i)).foldl crc7Bit c = c <<< k := by
  induction k with
  | zero => simp
  | succ k ih =>
    have htop : c.getLsbD (6 - k) = (c <<< k).getLsbD 6 := by
      rw [BitVec.getLsbD_shiftLeft]
      simp [show ¬6 < k by omega]
    rw [List.range_succ, List.map_append, List.foldl_append, ih (by omega), List.map_singleton, List.foldl_cons,
      List.foldl_nil, htop, crc7Bit_top, BitVec.shiftLeft_add]

/-- A register brought in as the upper seven bits of a byte leaves what the last bit makes of the empty register. -/
theorem crc7Upd_own (c : BitVec 7) {d : Byte} {b : Bool} (hlow : d.getLsbD 0 = b)
    (hhigh : ∀ i < 7, d.getLsbD (7 - i) = c.getLsbD (6 - i)) :
    crc7Upd (c.setWidth 8) d = (crc7Bit 0#7 b).setWidth 8 := by
  have hbits : [7, 6, 5, 4, 3, 2, 1, 0].map d.getLsbD = ((List.range 7).map fun i => c.getLsbD (6 - i)) ++ [b] := by
    have hmap : (List.range 7).map (fun i => c.getLsbD (6 - i)) = (List.range 7).map fun i => d.getLsbD (7 - i) :=
      List.map_congr_left fun i hi => (hhigh i (List.mem_range.mp hi)).symm
    rw [hmap, ← hlow]
    rfl
  have hout : c <<< 7 = 0#7 := BitVec.shiftLeft_eq_zero (Nat.le_refl 7)
  rw [crc7Upd, BitVec.setWidth_setWidth_of_le _ (by decide), BitVec.setWidth_eq, hbits, List.foldl_append,
    foldl_crc7Bit_own c (Nat.le_refl 7), hout]
  rfl

/-- A CRC-7 is a register, with bit 7 of the byte 0. -/
theorem crc7Fold_zero_eq (m : List Byte) :
    crc7Fold 0#8 m = ((messageBits m).foldl crc7Bit 0#7).setWidth 8 := by
  have hzero : crc7Fold 0#8 m = ((crc7Fold 0#8 m).setWidth 7).setWidth 8 := by
    rcases List.eq_nil_or_concat m with rfl | ⟨m, d, rfl⟩
    · decide
    · rw [List.concat_eq_append, crc7Fold_append_singleton, crc7Upd,
        BitVec.setWidth_setWidth_of_le (k := 7) (l := 8) _ (by decide), BitVec.setWidth_eq]
  rw [hzero, crc7Fold_setWidth]
  rfl

/-- Eight shifts of a register with an empty upper half move its lower half up. -/
theorem shifts_lowerByte (b : Byte) {k : Nat} (hk : k ≤ 8) :
    Nat.repeat crc16Shift k (b.setWidth 16) = b.setWidth 16 <<< k := by
  induction k with
  | zero => simp [Nat.repeat]
  | succ k ih =>
    have htop : (b.setWidth 16 <<< k).getLsbD 15 = false := by
      simp [BitVec.getLsbD_of_ge b (15 - k) (by omega)]
    rw [Nat.repeat, ih (by omega), crc16Shift, htop, if_neg Bool.false_ne_true, BitVec.shiftLeft_add]

/-- A byte equal to the upper half of the register moves the lower half up. -/
theorem crc16Upd_upper (c : BitVec 16) : crc16Upd c (c.extractLsb' 8 8) = (c.extractLsb' 0 8).setWidth 16 <<< 8 := by
  have hcancel : c ^^^ ((c.extractLsb' 8 8).setWidth 16 <<< 8) = (c.extractLsb' 0 8).setWidth 16 := by
    ext i hi
    by_cases h8 : i < 8
    · simp [h8, hi, ← BitVec.getLsbD_eq_getElem]
    · have hsum : 8 + (i - 8) = i := by omega
      simp [h8, hi, ← BitVec.getLsbD_eq_getElem, hsum, show i - 8 < 8 by omega, show i - 8 < 16 by omega]
  rw [crc16Upd, hcancel, shifts_lowerByte _ (Nat.le_refl 8)]

/-- The two bytes of a register, brought in from the top, empty it. -/
theorem crc16Fold_own (c : BitVec 16) : crc16Fold c [c.extractLsb' 8 8, c.extractLsb' 0 8] = 0#16 := by
  have hzero : Nat.repeat crc16Shift 8 0#16 = 0#16 := by decide
  rw [crc16Fold_cons, crc16Fold_cons, crc16Upd_upper, crc16Upd, BitVec.xor_self, hzero]
  rfl

/-- Settles O29: a message's CRC, brought in after it, is the register's own bits. -/
theorem crcResidues : Obligations.CrcResidues := by
  have hown : ∀ (c : BitVec 7) (d : Byte), d = c.setWidth 8 <<< 1 ∨ d = c.setWidth 8 <<< 1 ||| 1#8 →
      ∀ i < 7, d.getLsbD (7 - i) = c.getLsbD (6 - i) := by
    rintro c d (rfl | rfl) i hi <;>
      simp [show 7 - i < 8 by omega, show ¬7 - i < 1 by omega, show 7 - i ≠ 0 by omega, show 7 - i - 1 = 6 - i by omega]
  refine ⟨crc16Fold_own, fun m => ?_, fun m => ?_, fun m => ?_⟩
  · rw [crc16Fold_append, crc16Fold_own]
  · rw [crc7Fold_append_singleton, crc7Fold_zero_eq, crc7Upd_own (b := false) _ (by simp) (hown _ _ (.inl rfl))]
    decide
  · rw [crc7Fold_append_singleton, crc7Fold_zero_eq, crc7Upd_own (b := true) _ (by simp) (hown _ _ (.inr rfl))]
    decide

/-- Settles O30: both folds are evaluated. -/
theorem crcCheckValues : Obligations.CrcCheckValues := by
  exact ⟨by decide +kernel, by decide +kernel⟩

end Sys2Proof.Machine
end
